-- ==== Sys2Proof/Word.lean ====
section
/-! DEFINITION. The words of the upstream and downstream buses, and points of the two coordinate systems
(spec/00_scope.md, Conventions). -/

namespace Sys2Proof

/-- A word of review memory: 32 bits, little-endian in memory. -/
abbrev Word := BitVec 32

/-- A byte of review memory. -/
abbrev Byte := BitVec 8

/-- A position or an offset, in nanometres, in wafer or stage coordinates. Messages and records carry
its components as signed 32-bit numbers; the arithmetic on them is exact (R53 to R57). -/
structure Point where
  x : Int
  y : Int
  deriving DecidableEq, Repr

/-- The point both of whose components a message or a record gives as signed words. -/
def Point.ofWords (x y : Word) : Point := ⟨x.toInt, y.toInt⟩

/-- The origin; also what a position field reads as when it is absent (R187). -/
def Point.zero : Point := ⟨0, 0⟩

end Sys2Proof
end

