-- ==== Sys2Proof/Syntax.lean ====
section
/-! DEFINITION. The commands of the part: one constructor for each row of spec/opcode_table.json, in the
table's order. The table gives no row any bits, so each constructor carries the operands of its event:
the fields of a link message, or a word of the upstream bus. -/

namespace Sys2Proof

/-- A carrier port (R1, R41). -/
inductive Port where
  | one
  | two
  deriving DecidableEq, Repr

/-- The result of a DONE message, in the order of its codes 0 to 3 (R200, LATE_COMPLETION). -/
inductive DoneResult where
  | ok
  | notPicked
  | notPlaced
  | fault
  deriving DecidableEq, Repr

/-- A write of one word to a cell of the configuration page, or of memory: the data, the four byte
enables (bit `k` for lane `k`), and whether another word of the same upstream burst follows (R182). -/
structure WordWrite where
  data  : Word
  lanes : BitVec 4
  more  : Bool
  deriving DecidableEq, Repr

/-- A write to the command cell that is taken as a command: its lane 0 is enabled and holds the command
value, which the constructor of `Instr` names (R188). What is left of the write: bits 8 to 31 of the
data, the byte enables of lanes 1 to 3, and whether another word of the burst follows. -/
structure CommandWrite where
  upper : BitVec 24
  lanes : BitVec 3
  more  : Bool
  deriving DecidableEq, Repr

/-- The read burst of the cause cell: how many of its words are served with the cell, before it and after it, at the
addresses below and above the cell's (R182, log 34). -/
structure ReadBurst where
  before : Fin 8
  after  : Fin 8
  deriving DecidableEq, Repr

/-- The commands, messages and events that the part takes, one constructor for each row of the table. -/
inductive Instr where
  -- resets
  | powerOn
  | lineReset
  -- commands, values 1 to 13 and the others
  | lotStart (w : CommandWrite)
  | lotHold (w : CommandWrite)
  | lotRelease (w : CommandWrite)
  | lotAbort (w : CommandWrite)
  | waferAbort (w : CommandWrite)
  | reviewEnd (w : CommandWrite)
  | reviewSuspend (w : CommandWrite)
  | reviewResume (w : CommandWrite)
  | realign (w : CommandWrite)
  | guardClear (w : CommandWrite)
  | recoverWafer (w : CommandWrite)
  | mapReload (w : CommandWrite)
  | softReset (w : CommandWrite)
  | unknownCommand (value : BitVec 8) (w : CommandWrite)
  -- other words of the upstream bus
  | mapHeaderWrite (w : WordWrite)
  | argumentCellWrite (cell : Fin 6) (w : WordWrite)
  | attentionMaskWrite (w : WordWrite)
  | eventConsumerIndexWrite (w : WordWrite)
  | reportConsumerIndexWrite (w : WordWrite)
  | windowSelectWrite (w : WordWrite)
  | parameterWrite (word : Fin 128) (w : WordWrite)
  /-- `index` is the word address: byte address / 4. -/
  | upstreamWrite (index : BitVec 22) (w : WordWrite)
  /-- `index` is the word address of the slot's tag word. -/
  | posting (index : BitVec 22) (w : WordWrite)
  | burstResume
  | causeCellRead (b : ReadBurst)
  -- completions of fetches and other jobs
  | intakeRecord
  | resultRecord
  | markRecord
  | acceptJobComplete
  | eventJobComplete
  | reportJobComplete
  | layoutReadComplete
  | loadmapComplete
  -- steps of the path unit and of waiting producers
  | loadingBegin
  | reportJobQueued
  | layoutReadQueued
  -- messages of the handler link
  | done (tag : BitVec 8) (result : DoneResult)
  | prealigned (wafer : BitVec 8) (notch : Word) (offsetX offsetY : BitVec 16)
  | prealignFail (wafer : BitVec 8)
  | slotmap (port : Port) (flags : BitVec 25)
  | port (port : Port) (present opened : Bool)
  -- messages of the stage link
  | arrived (tag : BitVec 8) (x y : Word)
  | fault (tag : BitVec 8) (code : BitVec 16)
  | position (x y : Word)
  -- the focus link and the strobe line
  | sample (z : Word) (quality : BitVec 8)
  | grabStrobe
  -- timers and the clock
  | orderTimerExpiry
  | prealignTimerExpiry
  | debounceTimerExpiry (port : Port)
  | moveTimerExpiry
  | settleTimerExpiry
  | resultTimerExpiry
  | millisecondTick
  deriving DecidableEq, Repr

end Sys2Proof
end

