-- ==== Sys2Proof/WellFormed.lean ====
section
/-! DEFINITION. Which terms of `Instr` are a row's event: an unknown command carries a value that names no
command (R188), a posting is a write that R175 can take, an upstream write has no row of its own, and a burst has at
most 8 words (R182). -/

namespace Sys2Proof

/-- A command value that names no command: 0, or above 13 (R188). -/
def unknownValue (v : BitVec 8) : Bool := v.toNat == 0 || decide (13 < v.toNat)

/-- The byte address of a word address. -/
def byteAddress (index : BitVec 22) : Nat := 4 * index.toNat

/-- A word that can be the tag word of a slot: word 7 of 32 bytes, below the configuration page (R175). -/
def tagPlace (index : BitVec 22) : Bool :=
  index.toNat % 8 == 7 && decide (byteAddress index < 0xFFF000)

/-- The write enables the lane of the post flag and sets the flag (R175). -/
def setsPostFlag (w : WordWrite) : Bool := w.lanes.getLsbD 3 && w.data.getLsbD 31

/-- A word of the configuration page whose write is a row of its own: the map header, the command cell
with lane 0 enabled, the argument cells, the attention mask, the two consumer indices, the window select
and the parameter area (R166, R188). -/
def rowOfItsOwn (index : BitVec 22) (w : WordWrite) : Bool :=
  let a := byteAddress index
  a == 0xFFF000 || (a == 0xFFF100 && w.lanes.getLsbD 0)
    || (decide (0xFFF104 ≤ a) && decide (a ≤ 0xFFF118))
    || (decide (0xFFF12C ≤ a) && decide (a ≤ 0xFFF138))
    || (decide (0xFFF200 ≤ a) && decide (a < 0xFFF400))

/-- The well-formed commands. -/
def Instr.wellFormed : Instr → Bool
  | .unknownCommand v _ => unknownValue v
  | .posting index w => tagPlace index && setsPostFlag w
  | .upstreamWrite index w => !(rowOfItsOwn index w)
  | .causeCellRead b => decide (b.before.val + b.after.val < 8)
  | _ => true

end Sys2Proof
end

