-- ==== Sys2Proof/Decode.lean ====
section
/-! DEFINITION. Words of spec/opcode_table.json. The table gives bits to none of its rows (every row's
"fields" is empty and no row has "fixed"): a command of this block is an event, not a word, so no word
spells one (log 25). -/

namespace Sys2Proof

/-- The command that a word spells by the table's bits: none, since no row gives bits. -/
def decodeTableWord (_nbits _w : Nat) : Option Instr := none

end Sys2Proof
end

