-- ==== Sys2Proof/Config.lean ====
section
/-! DEFINITION. What the manual fixes as a number of the part, and the choices it leaves open. -/

namespace Sys2Proof.Config

/-- Places of the job queue (R183). -/
def jobPlaces : Nat := 16

/-- Queue depth from which the head job's bursts go before the upstream access (R185). -/
def jobsFirstDepth : Nat := 12

/-- Wafer records of the wafer table (R14). -/
def waferCount : Nat := 50

/-- Places of the revisit table, and the share of one wafer (R69). -/
def tablePlaces : Nat := 2048
def waferEntries : Nat := 1024

/-- Points of the focus map (R126) and samples of a trace (R135). -/
def mapPoints : Nat := 64
def traceSamples : Nat := 128

/-- Milliseconds for which a port must hold a change (R41). -/
def debounceMs : Nat := 20

/-- Byte address of the configuration page (R166). -/
def pageBase : Nat := 0xFFF000

/-- DESIGN CHOICE (log 9), a free value. R40: the planner run and the hold that one wafer report causes
"may be taken in either order". Draw `n` says whether the run is taken first. Nothing is known of it. -/
opaque planFirst : Nat → Bool

/-- DESIGN CHOICE (log 10), a free value. R115 and R141: the focus unit and the height guard each take a
sample, "whichever of the two units takes the sample first". Draw `n` says whether the guard does. -/
opaque guardFirst : Nat → Bool

end Sys2Proof.Config
end

