-- ==== Sys2Proof/Machine/State.lean ====
section
/-! DEFINITION. The state of the part: every piece of state the spec gives each of its ten blocks, review
memory below it, and the queue of commands waiting to be taken. INVENTORY.md lists each field with its
rule and its reset value. Names of codes stand in the order of their codes (R187). -/

namespace Sys2Proof.Machine

/-- Review memory as (byte address, byte) pairs, in the canonical form `Memory.wf` (Ops). -/
abbrev Memory := List Host.Cell

/-! ## Lots and wafers (R1, R14) -/

/-- Where a wafer is (R21). Codes 0 to 6. -/
inductive Location where
  | slot | armU | armL | pa | ll | stage | unknown
  deriving DecidableEq, Repr

/-- Where a wafer stands in its review (R14). Codes 0 to 8. -/
inductive Phase where
  | waiting | skipped | toPA | prealigning | prealigned | aligning | reviewing | reviewDone | returned
  deriving DecidableEq, Repr

/-- The final result of a wafer (R14). Codes 1 to 7; 0 is absent. -/
inductive WaferOutcome where
  | complete | aborted | alignFailed | prealignFailed | cut | notSelected | slotEmpty
  deriving DecidableEq, Repr

/-- What PREALIGNED reported, as sent (R33): notch angle in microradians, centre offset in micrometres. -/
structure Prealign where
  notch   : Word
  offsetX : BitVec 16
  offsetY : BitVec 16
  deriving DecidableEq, Repr

/-- State of an alignment attempt (R48). Codes 0 to 2. -/
inductive AttemptState where
  | none | collecting | closeWaiting
  deriving DecidableEq, Repr

/-- Kind of an alignment attempt (R48). Codes 0 and 1. -/
inductive AttemptKind where
  | first | realign
  deriving DecidableEq, Repr

/-- Answer to a closed attempt (R48). Codes 1 to 5; 0 is absent. -/
inductive Verdict where
  | accepted | incomplete | marksTooClose | coeffRange | checkFailed
  deriving DecidableEq, Repr

/-- A mark held: its design position and its measured stage position (R48). -/
structure Mark where
  design   : Point
  measured : Point
  deriving DecidableEq, Repr

/-- Alignment state of a wafer (R48). -/
structure Align where
  state       : AttemptState
  kind        : AttemptKind
  primary     : Option Mark
  secondary   : Option Mark
  checks      : List Mark
  lastVerdict : Option Verdict
  used        : Nat
  deriving DecidableEq, Repr

/-- As created with the wafer record (R48): state NONE, no marks, no verdict, no attempt used. R48 gives no kind then;
the model takes FIRST, which bit 22 of word 2 of the wafer window shows. DESIGN CHOICE (log 36). -/
def Align.fresh : Align := ⟨.none, .first, none, none, [], none, 0⟩

/-- The transform in force: the primary mark and the two Q2.30 coefficients (R58). -/
structure Transform where
  pd : Point
  pm : Point
  a  : Int
  b  : Int
  deriving DecidableEq, Repr

/-- Per-wafer accumulators (R147). -/
structure WaferAcc where
  accepted       : Nat
  done           : Nat
  notFound       : Nat
  sampledOut     : Nat
  skipped        : Nat
  outOfRange     : Nat
  timedOut       : Nat
  focusFailed    : Nat
  predictedFocus : Nat
  noStrobe       : Nat
  offsetSum      : Nat
  /-- 32 counts, one per final class. -/
  classCounts    : List Nat
  deriving DecidableEq, Repr

/-- All counts zero (R5). -/
def WaferAcc.zero : WaferAcc := ⟨0, 0, 0, 0, 0, 0, 0, 0, 0, 0, 0, List.replicate 32 0⟩

/-- A wafer record (R14) with the fields other units keep beside it: the alignment state (R48), the
revisit unit's fields (R69), the aborting mark (R18) and the accumulators its link leads to (R147). Its
index, and so its home port and slot, is its place in the wafer table. -/
structure Wafer where
  /-- The lot run that owns the record. -/
  run         : Nat
  lotNumber   : Word
  location    : Location
  phase       : Phase
  outcome     : Option WaferOutcome
  prealign    : Option Prealign
  align       : Align
  transform   : Option Transform
  drift       : Point
  /-- The accumulator link: present exactly while the accumulators exist. -/
  acc         : Option WaferAcc
  aborting    : Bool
  nextArrival : Nat
  /-- 16 counts, one per rough class (R81). -/
  classUse    : List Nat
  reviewEnd   : Bool
  deriving DecidableEq, Repr

/-- State of a lot (R6). -/
inductive LotState where
  | active | pending | held | aborting | closing
  deriving DecidableEq, Repr

/-- A layout record as a lot latches it (R4): die pitch, die origin, nominal z and focus offset, nm. -/
structure Layout where
  pitch       : Point
  origin      : Point
  nominalZ    : Int
  focusOffset : Int
  deriving DecidableEq, Repr

/-- One excursion watch as a lot latches it (R161). -/
structure Watch where
  cls       : Nat
  threshold : Nat
  runLength : Nat
  hold      : Bool
  enable    : Bool
  deriving DecidableEq, Repr

/-- The settings a lot latches (R4): quotas, watches, trace settings (R134) and layout record. -/
structure Settings where
  /-- 16 class quotas. -/
  quotas        : List Nat
  /-- Watches 1 to 4. -/
  watches       : List Watch
  traceClass    : Nat
  traceMask     : Nat
  traceMismatch : Bool
  traceEnable   : Bool
  layout        : Layout
  deriving DecidableEq, Repr

/-- Lot accumulators (R152). -/
structure LotAcc where
  /-- 32 totals, one per final class. -/
  totals    : List Nat
  saturated : Bool
  /-- The runs of watches 1 to 4. -/
  runs      : List Nat
  /-- The excursion flags of watches 1 to 4. -/
  flags     : List Bool
  deriving DecidableEq, Repr

/-- All totals and runs zero, all flags clear (R152, R161). -/
def LotAcc.zero : LotAcc := ⟨List.replicate 32 0, false, [0, 0, 0, 0], [false, false, false, false]⟩

/-- A lot run in the queue (R1). Lot 0 of a soft reset has no port, no layout index, no settings and no
accumulators (R19). -/
structure Lot where
  /-- The lot run itself, which R130 tells from its number (log 16). -/
  run             : Nat
  number          : Word
  port            : Option Port
  selection       : BitVec 25
  layoutIndex     : Option Nat
  state           : LotState
  settings        : Option Settings
  reportRequested : Bool
  acc             : Option LotAcc
  deriving DecidableEq, Repr

/-- The two positions of the lot queue (R1). -/
structure LotQueue where
  active : Option Lot
  second : Option Lot
  deriving DecidableEq, Repr

/-! ## Handling (R22, R29, R41) -/

/-- State of the handling unit (R29). Codes 0 to 3. -/
inductive HandlingState where
  | idle | busy | halted | portWait
  deriving DecidableEq, Repr

inductive OrderKind where
  | pick | place | transfer
  deriving DecidableEq, Repr

/-- An end effector of the robot. -/
inductive Arm where
  | u | l
  deriving DecidableEq, Repr

/-- The handler order in flight (R22). A place named `slot` is the wafer's home slot. -/
structure Order where
  tag   : BitVec 8
  kind  : OrderKind
  wafer : Nat
  src   : Location
  dst   : Location
  arm   : Option Arm
  retry : Bool
  /-- Milliseconds the order's timer still has to run. -/
  timer : Nat
  deriving DecidableEq, Repr

/-- A (present, open) pair of a carrier port (R41). -/
structure PortPair where
  present : Bool
  opened  : Bool
  deriving DecidableEq, Repr

/-- State of one carrier port (R41). -/
structure PortState where
  raw       : PortPair
  debounced : PortPair
  /-- Milliseconds left of the debounce timer, while it runs. -/
  timer     : Option Nat
  slotMap   : Option (BitVec 25)
  deriving DecidableEq, Repr

def PortState.reset : PortState := ⟨⟨false, false⟩, ⟨false, false⟩, none, none⟩

structure Handling where
  state       : HandlingState
  order       : Option Order
  tag         : BitVec 8
  /-- Tag and wafer of the last expired order (R27). -/
  lastExpired : Option (BitVec 8 × Nat)
  /-- Carrier removals that wait on the order in flight: the lot run aborted and the port (R45). -/
  removals    : List (Nat × Port)
  /-- The prealignment in progress: wafer and milliseconds left of its timer (R32). -/
  prealign    : Option (Nat × Nat)
  port1       : PortState
  port2       : PortState
  /-- MODEL's own: a planner run is due at the end of this step (R35, log 9). -/
  runDue      : Bool
  deriving DecidableEq, Repr

/-! ## Revisit table (R76) and visits (R90) -/

/-- State of an entry (R77): queued, the four visit states, the seven terminal states. -/
inductive EntryState where
  | queued | moving | settling | ready | grabbed
  | done | notFound | sampledOut | skipped | outOfRange | timedOut | focusFailed
  deriving DecidableEq, Repr

/-- Result part of an entry (R76). -/
structure ResultPart where
  finalClass : Nat
  found      : Bool
  offset     : Point
  deriving DecidableEq, Repr

/-- Visit part of an entry (R76). -/
structure VisitPart where
  noStrobe       : Bool
  predictedFocus : Bool
  deriving DecidableEq, Repr

/-- An entry of the revisit table (R76). -/
structure Entry where
  index      : Nat
  wafer      : Nat
  defectId   : Word
  col        : Int
  row        : Int
  inDie      : Point
  size       : Word
  roughClass : Nat
  priority   : Nat
  arrival    : Nat
  state      : EntryState
  retries    : Nat
  dispatched : Bool
  result     : Option ResultPart
  visitPart  : Option VisitPart
  deriving DecidableEq, Repr

/-- State of a visit (R90). Codes 1 to 4; 0 is NONE. -/
inductive VisitState where
  | moving | settling | ready | grabbed
  deriving DecidableEq, Repr

/-- Where a predicted height comes from (R133). Codes 0 to 3. -/
inductive FocusSource where
  | nearest | mapMean | lotSeed | nominal
  deriving DecidableEq, Repr

/-- The visit in flight (R90). Its timer always runs. -/
structure Visit where
  entry          : Nat
  wafer          : Nat
  defectId       : Word
  state          : VisitState
  target         : Point
  moveTag        : BitVec 8
  zPred          : Int
  source         : FocusSource
  arrival        : Option Point
  captured       : Option Point
  lockedAtStrobe : Bool
  predictedFocus : Bool
  /-- Milliseconds left of the move, settle or result timer. -/
  timer          : Nat
  deriving DecidableEq, Repr

/-- The dispatcher's hold set (R91). ALIGN is held with the wafer it was set for (R60). -/
structure HoldSet where
  suspend : Bool
  stage   : Bool
  align   : Option Nat
  guard   : Bool
  deriving DecidableEq, Repr

/-- The last accepted RESULT, as the visit window shows it (R113). -/
structure LastResult where
  entry      : Nat
  found      : Bool
  finalClass : Nat
  offset     : Point
  quality    : Nat
  deriving DecidableEq, Repr

structure VisitUnit where
  current    : Option Visit
  hold       : HoldSet
  tag        : BitVec 8
  /-- The stage move in flight: tag and target (R94). -/
  move       : Option (BitVec 8 × Point)
  position   : Option Point
  faultCode  : BitVec 16
  lastResult : Option LastResult
  deriving DecidableEq, Repr

/-! ## Focus unit (R117) and height guard (R139) -/

/-- Focus lock state (R117). Codes 0 to 4. -/
inductive FocusState where
  | idle | acquiring | locked | holdover | lost
  deriving DecidableEq, Repr

/-- A point of the focus map (R126). -/
structure MapPoint where
  pos : Point
  z   : Int
  deriving DecidableEq, Repr

/-- The lot seed with the lot run that owns it (R130). -/
structure Seed where
  z   : Int
  run : Nat
  deriving DecidableEq, Repr

structure TraceSample where
  z       : Word
  quality : Byte
  state   : FocusState
  deriving DecidableEq, Repr

/-- A focus trace being recorded (R134, R135), samples oldest first. -/
structure Trace where
  wafer     : Nat
  entry     : Nat
  defectId  : Word
  lotNumber : Word
  samples   : List TraceSample
  deriving DecidableEq, Repr

structure Focus where
  state        : FocusState
  unsettled    : Bool
  run          : Nat
  settle       : Nat
  holdover     : Nat
  /-- The predicted output of the visit in flight (R117). -/
  predicted    : Option Int
  /-- At most 4 accepted samples, newest last (R116). -/
  accepted     : List Int
  strobeHeight : Option Int
  output       : Int
  boundMin     : Int
  boundMax     : Int
  /-- At most 64 points, oldest first (R126). -/
  map          : List MapPoint
  seed         : Option Seed
  /-- A first FOCUS_SET is owed (R137). -/
  owed         : Bool
  trace        : Option Trace
  /-- A trace was handed over and its report is not yet written (R136). -/
  traceHanded  : Bool
  deriving DecidableEq, Repr

/-- State of the height guard (R139). Codes 0 to 2. -/
inductive GuardState where
  | normal | softTripped | hardTripped
  deriving DecidableEq, Repr

structure Guard where
  state      : GuardState
  outRun     : Nat
  inRun      : Nat
  tripHeight : Option Int
  deriving DecidableEq, Repr

/-! ## Report unit (R155, R156) -/

/-- What a report is of: a wafer, a lot run, or the trace of a visit of a wafer. Kind codes 1 to 3. -/
inductive ReportTag where
  | wafer (index : Nat)
  | lot (run : Nat)
  | trace (wafer : Nat)
  deriving DecidableEq, Repr

/-- A report built and not yet written: its words, header included (R150, R153, R154). -/
structure Report where
  tag   : ReportTag
  words : List Word
  deriving DecidableEq, Repr

structure ReportUnit where
  queue    : List Report
  producer : Nat
  wrap     : Word
  consumer : Nat
  deriving DecidableEq, Repr

/-! ## Path unit (R167, R169, R183) -/

/-- Path mode (R169). Codes 0 to 2. -/
inductive PathMode where
  | loading | mapped | transparent
  deriving DecidableEq, Repr

/-- Kind of a zone descriptor (R167). Codes 0 to 7. -/
inductive ZoneKind where
  | unused | intake | results | marks | layout | events | reports | guarded
  deriving DecidableEq, Repr

/-- A zone descriptor (R167): base page, page count, and the fields of a GUARDED zone. -/
structure Zone where
  kind       : ZoneKind
  page       : Nat
  pages      : Nat
  high       : Bool
  exponent   : Nat
  complement : Bool
  deriving DecidableEq, Repr

/-- One downstream burst of a job: at most 8 words at consecutive addresses (R183). -/
inductive Burst where
  | read (addr count : Nat)
  | write (addr : Nat) (words : List Word)
  deriving DecidableEq, Repr

/-- What completing a REPORT job makes of the report ring (R158): where the record starts, the producer
index and wrap count after it, and the report written, or none for the ring header alone (R160). -/
structure ReportJob where
  start : Nat
  next  : Nat
  wrap  : Word
  tag   : Option ReportTag
  deriving DecidableEq, Repr

/-- The kinds of job (R183); LOADMAP jobs read the map block, the parameter area or a layout record. -/
inductive JobKind where
  | fetch (slot : Nat) (zone : ZoneKind) (seq : Byte) (last : Bool)
  | accept (slot : Nat)
  | event
  | report (r : ReportJob)
  | mapBlock
  | paramArea
  | layout
  deriving DecidableEq, Repr

/-- A job: the bursts still to be carried out, and the words its bursts have read so far. -/
structure Job where
  kind   : JobKind
  bursts : List Burst
  got    : List Word
  deriving DecidableEq, Repr

/-- The bursts that read `n` blocks of 8 words from `addr` upward. -/
def readBlocks : Nat → Nat → List Burst
  | 0, _ => []
  | n + 1, addr => .read addr 8 :: readBlocks n (addr + 32)

/-- The LOADMAP job that reads the 36 words of the map block (R170). -/
def mapBlockJob : Job := ⟨.mapBlock, readBlocks 4 0xFFF000 ++ [.read 0xFFF080 4], []⟩

/-- The LOADMAP job that reads the 128 words of the parameter area (R170). -/
def paramAreaJob : Job := ⟨.paramArea, readBlocks 16 0xFFF200, []⟩

/-- Producers that wait for a place in the job queue (R184): a posting's FETCH, the head of the report
queue, a LOT_START's layout read. -/
inductive Producer where
  | fetch | report | layout
  deriving DecidableEq, Repr

/-- What an upstream word does. -/
inductive UpAccess where
  | write (data : Word) (lanes : BitVec 4)
  | read
  deriving DecidableEq, Repr

/-- A word of the upstream bus: its word address, and whether another word of the same burst follows. -/
structure UpWord where
  index  : BitVec 22
  access : UpAccess
  more   : Bool
  deriving DecidableEq, Repr

/-- The upstream burst of which more words are to come, while none of its words waits (R185). -/
inductive UpBurst where
  /-- No burst is in progress, or the one in progress waits. -/
  | none
  /-- A word of the burst has been served, and none has gone to memory yet. -/
  | begun
  /-- A word of the burst has gone to memory: the downstream bus has been handed to it. -/
  | carried
  deriving DecidableEq, Repr

/-- A read burst of the tool controller, or a part of one: the word address of its first word, how many words follow
that one, and whether more words of the same burst come after them (R182). -/
structure ReadAccess where
  start : BitVec 22
  after : Fin 8
  more  : Bool
  deriving DecidableEq, Repr

structure Path where
  mode          : PathMode
  /-- The eight descriptors of the map in force; empty when no map is in force (R170, R171). -/
  zones         : List Zone
  /-- Eight drop counts and eight reported marks (R179). -/
  drops         : List Nat
  reported      : List Bool
  lastDrop      : Option Nat
  /-- Base addresses of the held slots (R176). -/
  held          : List Nat
  /-- The job queue, head first (R183). -/
  jobs          : List Job
  reloadPending : Bool
  /-- A map reload has begun and drains the job queue (R172). -/
  draining      : Bool
  /-- Producers waiting for a queue place, in the order in which they began to wait (R184). -/
  waiters       : List Producer
  /-- The upstream words that wait, first in first out (R182). -/
  upWait        : List UpWord
  /-- The upstream burst in progress, and whether the downstream bus has been handed to it (R185). -/
  upBurst       : UpBurst
  /-- MODEL's own: the words answered to upstream reads, newest first (R181, R182, log 23). -/
  answered      : List Word
  deriving DecidableEq, Repr

/-! ## Command unit (R188 to R202) -/

/-- Result code of a command (R189). Codes 0 to 15. -/
inductive CommandCode where
  | none | accepted | noMap | lotQueueFull | portInUse | portNotReady | layoutInvalid | noLot
  | notReviewing | notHalted | notUnknown | occupied | stillOut | unknownCommand | inReset | overrun
  deriving DecidableEq, Repr

/-- The arguments of the LOT_START in progress (R2). -/
structure LotRequest where
  a0 : Word
  a1 : Word
  a2 : Word
  a3 : Word
  deriving DecidableEq, Repr

/-- Cause of the last reset (R193). Codes 0 to 2. -/
inductive ResetCause where
  | power | line | soft
  deriving DecidableEq, Repr

structure Command where
  code        : CommandCode
  echoed      : Byte
  count       : Byte
  /-- The LOT_START in progress (R190). -/
  lotStart    : Option LotRequest
  /-- Copies of A0 to A5 (R166). -/
  args        : List Word
  /-- The cause set: bits 0 to 4 for FAULT, FOCUS, HANDLING, REVIEW, REPORT (R194, R195). -/
  causes      : BitVec 5
  /-- The attention mask copy, in the same order (R196). -/
  mask        : BitVec 5
  evNext      : Nat
  evWrap      : Word
  evConsumer  : Nat
  evLost      : Bool
  /-- Window select copy: bits 0 to 7 wafer index, bit 8 status view (R193). -/
  windowSel   : BitVec 9
  resetCause  : ResetCause
  warm        : Bool
  resetting   : Bool
  ms          : Word
  /-- Raw copies of the 128 parameter words (R202). -/
  paramRaw    : List Word
  /-- A parameter copy has been made since the last power-on or line reset (R202). -/
  paramsValid : Bool
  deriving DecidableEq, Repr

/-! ## The part -/

/-- A message sent on a side link (00_scope.md, External links and lines). -/
inductive LinkMessage where
  | order (tag : BitVec 8) (kind : OrderKind) (wafer : Nat) (src dst : Location) (arm : Option Arm)
  | move (tag : BitVec 8) (x y : Int)
  | halt
  | focusSet (z : Int)
  deriving DecidableEq, Repr

/-- The state of the part, of review memory, and of the queue of commands waiting to be taken. -/
structure State where
  mem      : Memory
  path     : Path
  cmd      : Command
  lots     : LotQueue
  /-- The wafer table: 50 places, one for each wafer index (R14). -/
  wafers   : List (Option Wafer)
  handling : Handling
  /-- The revisit table: the entries in rising order of their index (R69). -/
  table    : List Entry
  visit    : VisitUnit
  focus    : Focus
  guard    : Guard
  report   : ReportUnit
  /-- MODEL's own: the messages sent on the links, newest first (log 23). -/
  out      : List LinkMessage
  /-- MODEL's own: the number the next lot run takes (log 16). -/
  nextRun  : Nat
  /-- MODEL's own: how many free choices have been drawn (logs 9 and 10). -/
  choices  : Nat
  /-- The commands waiting to be taken, first in first out. -/
  pending  : List Instr
  /-- MODEL's own: the read bursts that the tool controller has sent and the part has not yet taken, first in first out;
  the table has a row for that of the cause cell alone (log 34). -/
  reads    : List ReadAccess
  deriving DecidableEq, Repr

/-- Why a step stops the machine: never. Every address exists, and every error of the part is an effect
on its state (a refusal code, an acceptance code, an event, a hold). Nobody raises a fault. -/
inductive Fault where
  deriving DecidableEq, Repr

/-- Why a command is refused by the model. -/
inductive Refusal where
  /-- Raised by `exec` for a row that has no meaning yet; no row is left without one. Safe: the machine stops. -/
  | notModelled (mnemonic : String)
  deriving DecidableEq, Repr

/-- The state after power-on (R171 and the reset rules of each chapter): the path is LOADING with its two
LOADMAP jobs queued (R170); memory lists nothing. -/
def State.reset : State where
  mem := []
  path :=
    { mode := .loading, zones := [], drops := List.replicate 8 0, reported := List.replicate 8 false,
      lastDrop := none, held := [], jobs := [mapBlockJob, paramAreaJob], reloadPending := false,
      draining := false, waiters := [], upWait := [], upBurst := .none, answered := [] }
  cmd :=
    { code := .none, echoed := 0, count := 0, lotStart := none, args := List.replicate 6 0, causes := 0,
      mask := 31, evNext := 0, evWrap := 0, evConsumer := 0, evLost := false, windowSel := 0,
      resetCause := .power, warm := false, resetting := false, ms := 0,
      paramRaw := List.replicate 128 0, paramsValid := false }
  lots := { active := none, second := none }
  wafers := List.replicate 50 none
  handling :=
    { state := .idle, order := none, tag := 0, lastExpired := none, removals := [], prealign := none,
      port1 := .reset, port2 := .reset, runDue := false }
  table := []
  visit :=
    { current := none, hold := ⟨false, false, none, false⟩, tag := 0, move := none, position := none,
      faultCode := 0, lastResult := none }
  focus :=
    { state := .idle, unsettled := false, run := 0, settle := 0, holdover := 0, predicted := none,
      accepted := [], strobeHeight := none, output := 0, boundMin := 0, boundMax := 0, map := [],
      seed := none, owed := true, trace := none, traceHanded := false }
  guard := { state := .normal, outRun := 0, inRun := 0, tripHeight := none }
  report := { queue := [], producer := 0, wrap := 0, consumer := 0 }
  out := []
  nextRun := 0
  choices := 0
  pending := []
  reads := []

end Sys2Proof.Machine
end

