-- ==== Sys2Proof/Machine/Ops.lean ====
section
/-! DEFINITION. The named operations that the units share: exact rounding, review memory, the tables,
the parameter copy, zones, the job queue and the posting of events. -/

namespace Sys2Proof.Machine

/-! ## Numbers (spec/00_scope.md, Rounding) -/

/-- `n / d` rounded to nearest, ties away from zero, for `d > 0`. -/
def roundDiv (n : Int) (d : Nat) : Int :=
  if 0 ≤ n then (2 * n + d) / (2 * d) else -((2 * (-n) + d) / (2 * d))

/-- The nearest value of the range `lo` to `hi`, for `lo ≤ hi`. -/
def clamp (lo hi v : Int) : Int := if v < lo then lo else if hi < v then hi else v

/-- The rounded mean of a list of heights; 0 for an empty list (log 21). -/
def meanOf (l : List Int) : Int := roundDiv l.sum l.length

/-- A value in the `width` bits from bit `lo` of a word. -/
def put (v lo width : Nat) : Nat := v % 2 ^ width * 2 ^ lo

/-- The `width` bits of a word from bit `lo`, as a number. -/
def bits (w : Word) (lo width : Nat) : Nat := w.toNat / 2 ^ lo % 2 ^ width

/-- A flag as one bit of a word. -/
def flagBit (b : Bool) (lo : Nat) : Nat := if b then 2 ^ lo else 0

/-- A number as a word; a signed number in two's complement. -/
def word (n : Nat) : Word := BitVec.ofNat 32 n
def wordOfInt (z : Int) : Word := BitVec.ofInt 32 z

/-- Two signed 16-bit quantities in one word, `x` in bits 0 to 15 (R200). -/
def packPair (x y : Int) : Word :=
  word (put (BitVec.ofInt 16 x).toNat 0 16 + put (BitVec.ofInt 16 y).toNat 16 16)

/-- Insertion of `a` before the first element that it comes no later than; `le` is the order. -/
def insertSorted {α : Type} (le : α → α → Bool) (a : α) : List α → List α
  | [] => [a]
  | b :: l => if le a b then a :: b :: l else b :: insertSorted le a l

/-- Stable insertion sort. -/
def sortBy {α : Type} (le : α → α → Bool) : List α → List α
  | [] => []
  | a :: l => insertSorted le a (sortBy le l)

/-! ## Review memory (R187: words are little-endian) -/

/-- What a byte of review memory that nothing has written reads as.
DESIGN CHOICE (log 1), unsafe: the manual gives SRAM no contents after power-on. With 0xFF the map header
is no valid one, and the first loading ends in TRANSPARENT, as the note of R171 says it almost always does. -/
def unwrittenByte : Byte := 0xFF

/-- The canonical form of memory: addresses strictly rising, no entry equal to an unlisted byte. -/
def Memory.wf : Memory → Bool
  | [] => true
  | [(_, v)] => v != unwrittenByte
  | (a, v) :: (b, w) :: m => decide (a < b) && v != unwrittenByte && Memory.wf ((b, w) :: m)

/-- One byte of memory. -/
def readByte : Memory → Nat → Byte
  | [], _ => unwrittenByte
  | (b, v) :: m, a => if a = b then v else readByte m a

/-- Writing one byte keeps the canonical form. -/
def writeByte : Memory → Nat → Byte → Memory
  | [], a, v => if v = unwrittenByte then [] else [(a, v)]
  | (b, w) :: m, a, v =>
    if a < b then (if v = unwrittenByte then (b, w) :: m else (a, v) :: (b, w) :: m)
    else if a = b then (if v = unwrittenByte then m else (a, v) :: m)
    else (b, w) :: writeByte m a v

/-- Byte lane `k` of a word. -/
def lane (w : Word) (k : Nat) : Byte := w.extractLsb' (8 * k) 8

/-- The word of four bytes, lane 0 first. -/
def wordOfLanes (b0 b1 b2 b3 : Byte) : Word := (b3 ++ b2 ++ b1 ++ b0 : BitVec (8 + 8 + 8 + 8))

/-- The word at a byte address. -/
def readWord (m : Memory) (a : Nat) : Word :=
  wordOfLanes (readByte m a) (readByte m (a + 1)) (readByte m (a + 2)) (readByte m (a + 3))

/-- `n` words from a byte address upward. -/
def readWords (m : Memory) : Nat → Nat → List Word
  | 0, _ => []
  | n + 1, a => readWord m a :: readWords m n (a + 4)

/-- The enabled lanes of a write, one byte each. -/
def writeLane (data : Word) (lanes : BitVec 4) (a k : Nat) (m : Memory) : Memory :=
  if lanes.getLsbD k then writeByte m (a + k) (lane data k) else m

/-- A bus write of one word: only the enabled lanes change (R178). -/
def writeWord (m : Memory) (a : Nat) (data : Word) (lanes : BitVec 4) : Memory :=
  writeLane data lanes a 3 (writeLane data lanes a 2 (writeLane data lanes a 1 (writeLane data lanes a 0 m)))

/-- A run of whole words written from a byte address upward. -/
def writeWords : Memory → Nat → List Word → Memory
  | m, _, [] => m
  | m, a, w :: ws => writeWords (writeWord m a w 15) (a + 4) ws

/-! ## The wafer table and the lots (R1, R14) -/

/-- The wafer record of an index, if there is one. -/
def waferAt (s : State) (i : Nat) : Option Wafer := s.wafers.getD i none

/-- A change of one wafer record; without a record, nothing changes. -/
def updWafer (i : Nat) (f : Wafer → Wafer) (s : State) : State :=
  { s with wafers := s.wafers.modify i (Option.map f) }

/-- The wafer indices 0 to 49. -/
def waferIndices : List Nat := List.range Config.waferCount

/-- Home port of a wafer index: port 1 for 0 to 24, port 2 for 25 to 49. -/
def homePort (i : Nat) : Port := if i < 25 then .one else .two

/-- Home slot, 1 to 25, of a wafer index. -/
def homeSlot (i : Nat) : Nat := i % 25 + 1

/-- The lowest wafer index whose record passes a test. -/
def findWafer (s : State) (p : Wafer → Bool) : Option Nat :=
  waferIndices.find? fun i => (waferAt s i).any p

/-- The wafer at a place, if the place is not empty (R21). -/
def waferIn (s : State) (l : Location) : Option Nat := findWafer s fun w => w.location == l

/-- The wafer on the stage. -/
def stageWafer (s : State) : Option Nat := waferIn s .stage

/-- Whether any wafer record is UNKNOWN (R29). -/
def anyUnknown (s : State) : Bool := (waferIn s .unknown).isSome

/-- The queued lots, active position first. -/
def lotList (s : State) : List Lot := s.lots.active.toList ++ s.lots.second.toList

/-- The lot of a run. -/
def lotOfRun (s : State) (run : Nat) : Option Lot := (lotList s).find? fun l => l.run == run

/-- The lot that owns a wafer record. -/
def lotOfWafer (s : State) (i : Nat) : Option Lot := (waferAt s i).bind fun w => lotOfRun s w.run

/-- A change of the lot of a run. -/
def updLot (run : Nat) (f : Lot → Lot) (s : State) : State :=
  let g := fun l : Lot => if l.run = run then f l else l
  { s with lots := { active := s.lots.active.map g, second := s.lots.second.map g } }

/-- The wafer indices of a lot, in rising order. -/
def wafersOfLot (s : State) (run : Nat) : List Nat :=
  waferIndices.filter fun i => (waferAt s i).any fun w => w.run == run

/-- Whether a test holds of every wafer record of a lot. -/
def allOfLot (s : State) (run : Nat) (p : Wafer → Bool) : Bool :=
  (wafersOfLot s run).all fun i => (waferAt s i).all p

/-- A lot is the soft-reset lot 0 when it latched no settings (R19). -/
def isLotZero (l : Lot) : Bool := l.settings.isNone

/-- A lot uses a port: its own, or, for lot 0, each port of which it holds a record (R1). -/
def usesPort (s : State) (l : Lot) (p : Port) : Bool :=
  l.port == some p ||
    (isLotZero l && (wafersOfLot s l.run).any fun i => homePort i == p)

/-- The latched settings of a wafer's lot. -/
def settingsOf (s : State) (i : Nat) : Option Settings := (lotOfWafer s i).bind (·.settings)

/-! ## The revisit table (R69, R78) -/

/-- The entry of an index, if the place is not free. -/
def entryAt (s : State) (i : Nat) : Option Entry := s.table.find? fun e => e.index == i

/-- A change of one entry. -/
def updEntry (i : Nat) (f : Entry → Entry) (s : State) : State :=
  { s with table := s.table.map fun e => if e.index = i then f e else e }

/-- Lowest-numbered free place from `n` upward, for entries in rising order of index. -/
def lowestFree : List Entry → Nat → Nat
  | [], n => n
  | e :: t, n => if e.index = n then lowestFree t (n + 1) else n

/-- Key order of R78 within one wafer; `true` when `a` comes before `b`. -/
def comesBefore (a b : Entry) : Bool :=
  if a.priority ≠ b.priority then decide (b.priority < a.priority)
  else if a.row ≠ b.row then decide (a.row < b.row)
  else if a.col ≠ b.col then (if a.row % 2 = 0 then decide (a.col < b.col) else decide (b.col < a.col))
  else if a.inDie.y ≠ b.inDie.y then decide (a.inDie.y < b.inDie.y)
  else decide (a.arrival < b.arrival)

/-- The queued list of a wafer, in review order (R69, R78). -/
def queuedList (s : State) (i : Nat) : List Entry :=
  sortBy comesBefore (s.table.filter fun e => e.wafer == i && e.state == .queued)

/-- Entries held of a wafer, in any state (R69, R86). -/
def entriesHeld (s : State) (i : Nat) : Nat := s.table.countP fun e => e.wafer == i

/-- A terminal state of an entry (R77). -/
def EntryState.isTerminal : EntryState → Bool
  | .queued | .moving | .settling | .ready | .grabbed => false
  | .done | .notFound | .sampledOut | .skipped | .outOfRange | .timedOut | .focusFailed => true

/-! ## Parameters (R201 to R203) -/

structure ParamRange where
  default : Int
  low     : Int
  high    : Int

/-- Words 0 to 21 of the parameter area. -/
def namedParams : List ParamRange :=
  [⟨20000, 1000, 120000⟩, ⟨60000, 5000, 600000⟩, ⟨15000, 1000, 120000⟩, ⟨500, 10, 10000⟩,
   ⟨6, 1, 16⟩, ⟨3000, 100, 5000⟩, ⟨155000000, 1000000, 200000000⟩, ⟨3000, 100, 60000⟩,
   ⟨400, 10, 10000⟩, ⟨5000, 100, 60000⟩, ⟨96, 0, 255⟩, ⟨2000, 100, 50000⟩,
   ⟨6, 1, 32⟩, ⟨8, 0, 64⟩, ⟨40, 1, 255⟩, ⟨20000, 1000, 150000⟩,
   ⟨-400000, -1000000, 0⟩, ⟨400000, 0, 1000000⟩, ⟨-300000, -1000000, 0⟩, ⟨300000, 0, 1000000⟩,
   ⟨3, 1, 16⟩, ⟨1, 0, 1⟩]

/-- Words 48 to 51: trace settings. -/
def traceParams : List ParamRange := [⟨0, 0, 15⟩, ⟨0, 0, 15⟩, ⟨0, 0, 1⟩, ⟨0, 0, 1⟩]

/-- The five words of a watch. -/
def watchParams : List ParamRange := [⟨0, 0, 31⟩, ⟨1023, 1, 1023⟩, ⟨8, 1, 8⟩, ⟨0, 0, 1⟩, ⟨0, 0, 1⟩]

/-- Default and range of a parameter word, or none for an ignored word (R201). -/
def paramRange (n : Nat) : Option ParamRange :=
  if n < 32 then namedParams[n]?
  else if n < 48 then some ⟨1024, 0, 1024⟩
  else if n < 64 then traceParams[n - 48]?
  else if n < 84 then watchParams[(n - 64) % 5]?
  else none

/-- The raw word that asks for the default (R202). -/
def defaultMark : Word := 0x80000000#32

/-- The value in force of a raw word: the default, the value, or the nearest bound (R202, R203). -/
def inForce (n : Nat) (raw : Word) : Int :=
  match paramRange n with
  | none => raw.toInt
  | some r => if raw = defaultMark then r.default else clamp r.low r.high raw.toInt

/-- A raw word that is taken at a bound of its range (R203). -/
def isClamped (n : Nat) (raw : Word) : Bool :=
  match paramRange n with
  | none => false
  | some r => raw != defaultMark && (decide (raw.toInt < r.low) || decide (r.high < raw.toInt))

/-- The value in force of parameter word `n`. -/
def param (s : State) (n : Nat) : Int := inForce n (s.cmd.paramRaw.getD n 0)

/-- A parameter that is a count or a time. -/
def paramNat (s : State) (n : Nat) : Nat := (param s n).toNat

/-! ## Zones (R167) -/

def Zone.unused : Zone := ⟨.unused, 0, 0, false, 0, false⟩

/-- First byte of a zone, and the first byte after it. -/
def Zone.base (z : Zone) : Nat := z.page * 4096
def Zone.stop (z : Zone) : Nat := z.base + z.pages * 4096

/-- Whether a zone covers a byte address. -/
def Zone.covers (z : Zone) (a : Nat) : Bool := decide (z.base ≤ a) && decide (a < z.stop)

/-- Descriptor `i` of the map in force; a path that is not MAPPED has no zones in force (R170). -/
def zoneAt (s : State) (i : Nat) : Zone :=
  if s.path.mode = .mapped then s.path.zones.getD i Zone.unused else Zone.unused

/-- The first zone in force of a kind. -/
def zoneOf (s : State) (k : ZoneKind) : Option Zone :=
  ((List.range 8).map (zoneAt s)).find? fun z => z.kind == k

/-- A map is complete when it uses each of the six kinds (R168). -/
def mapComplete (s : State) : Bool :=
  [ZoneKind.intake, .results, .marks, .layout, .events, .reports].all fun k => (zoneOf s k).isSome

/-- The zones of records: INTAKE, RESULTS and MARKS (R175). -/
def ZoneKind.hasSlots : ZoneKind → Bool
  | .intake | .results | .marks => true
  | .unused | .layout | .events | .reports | .guarded => false

/-- The slot that holds a byte address: kind of its zone and base address of the slot (R175). -/
def slotAt (s : State) (a : Nat) : Option (ZoneKind × Nat) :=
  (((List.range 8).map (zoneAt s)).find? fun z => z.kind.hasSlots && z.covers a).map fun z =>
    (z.kind, z.base + (a - z.base) / 32 * 32)

/-- The protected part of a GUARDED zone: the `S / 2^e` bytes nearest its side, or the rest (R167). -/
def Zone.guards (z : Zone) (a : Nat) : Bool :=
  let n := z.pages * 4096 / 2 ^ z.exponent
  let near := if z.high then decide (z.stop - n ≤ a) else decide (a < z.base + n)
  z.covers a && (near != z.complement)

/-- A layout record that a queued lot references (R180). -/
def layoutInUse (s : State) (z : Zone) (a : Nat) : Bool :=
  (lotList s).any fun l => l.layoutIndex.any fun k =>
    z.covers a && decide (z.base + 64 * k ≤ a) && decide (a < z.base + 64 * k + 64)

/-- Whether a zone drops an upstream write at a byte address (R178). -/
def zoneProtects (s : State) (z : Zone) (a : Nat) : Bool :=
  match z.kind with
  | .guarded => z.guards a
  | .events | .reports => z.covers a
  | .layout => layoutInUse s z a
  | .unused | .intake | .results | .marks => false

/-- The descriptor that protects a byte address, if any (R178, R179). -/
def protectedBy (s : State) (a : Nat) : Option Nat :=
  (List.range 8).find? fun i => zoneProtects s (zoneAt s i) a

/-- The tag write of a slot with the post flag set, which R175 takes as a posting. -/
def postingOf (s : State) (a : Nat) (data : Word) (lanes : BitVec 4) : Option (ZoneKind × Nat) :=
  if a % 32 = 28 ∧ lanes.getLsbD 3 ∧ data.getLsbD 31 ∧ s.cmd.resetting = false then slotAt s a else none

/-! ## Queue places and the producers that wait for one (R175, R184) -/

/-- Depth of the job queue, the head counted. -/
def depth (s : State) : Nat := s.path.jobs.length

/-- A producer joins those that wait, behind them, unless it waits already (R184). -/
def joinWaiters (p : Producer) (ps : List Producer) : List Producer := if p ∈ ps then ps else ps ++ [p]

/-- A producer begins to wait for a queue place (R184). -/
def beginWait (p : Producer) (s : State) : State :=
  { s with path := { s.path with waiters := joinWaiters p s.path.waiters } }

/-- A producer waits no longer. -/
def endWait (p : Producer) (s : State) : State :=
  { s with path := { s.path with waiters := s.path.waiters.filter (· ≠ p) } }

/-- A producer may take a queue place: one is free, and no other producer began to wait before it (R184). -/
def mayTakePlace (s : State) (p : Producer) : Bool :=
  decide (depth s < Config.jobPlaces) && (s.path.waiters.head?.all (· == p))

/-- Every upstream access waits during LOADING and during a reload drain (R169, R172). -/
def pathHolds (s : State) : Bool := s.path.mode == .loading || s.path.draining

/-- Byte address of an upstream word. -/
def UpWord.addr (u : UpWord) : Nat := 4 * u.index.toNat

/-- A write to any word of a held slot waits (R176). -/
def onHeldSlot (s : State) (u : UpWord) : Bool :=
  match u.access with
  | .read => false
  | .write _ _ => s.path.held.contains (u.addr / 32 * 32)

/-- A write that would be taken as a posting (R175, R178). -/
def isPosting (s : State) (u : UpWord) : Bool :=
  match u.access with
  | .read => false
  | .write data lanes => (protectedBy s u.addr).isNone && (postingOf s u.addr data lanes).isSome

/-- Whether a word waits for a queue place, so that it stands among the waiting producers (R184). -/
def waitsForPlace (s : State) (u : UpWord) : Bool :=
  !pathHolds s && !onHeldSlot s u && isPosting s u && !mayTakePlace s .fetch

/-- The producers that wait, with the FETCH of the first upstream word that waits, where that word lacks a place
(R184). -/
def notedWaiters (s : State) : List Producer :=
  if s.path.upWait.head?.any (waitsForPlace s) then joinWaiters .fetch s.path.waiters else s.path.waiters

/-- The first upstream word that waits takes its turn among the producers from the moment at which it lacks a place:
when it comes to wait, when what it waited for before has ended, and when the queue fills (R184). -/
def noteWait (s : State) : State := { s with path := { s.path with waiters := notedWaiters s } }

/-! ## The report ring and the REPORT that needs a job (R156, R157, R184) -/

/-- Words of the data area of a REPORTS zone (R156). -/
def ringWords (z : Zone) : Nat := 1024 * z.pages - 4

/-- Free space of the ring, in words (R156). -/
def ringFree (s : State) (n : Nat) : Nat := (s.report.consumer + (n - 1 - s.report.producer)) % n

/-- Whether a job is a REPORT job. -/
def JobKind.isReport : JobKind → Bool
  | .report _ => true
  | .fetch _ _ _ _ | .accept _ | .event | .mapBlock | .paramArea | .layout => false

/-- Whether a REPORT job of the ring is in the job queue (R156). -/
def reportInFlight (s : State) : Bool := s.path.jobs.any fun j => j.kind.isReport

/-- Words left before the end of the data area (R157, "the room"). -/
def ringRoom (s : State) (n : Nat) : Nat := n - s.report.producer

/-- The free space that a record of `len` words needs: with a PAD, the room as well (R157). -/
def ringNeed (s : State) (n len : Nat) : Nat :=
  if ringRoom s n < len then ringRoom s n + len else len

/-- The head of the report queue with its zone, when no REPORT job is in flight and the ring has room for it: the
report unit needs a job for it (R157). -/
def writableReport (s : State) : Option (Zone × Report) :=
  match zoneOf s .reports, s.report.queue with
  | some z, r :: _ =>
    if reportInFlight s || decide (ringFree s (ringWords z) < ringNeed s (ringWords z) r.words.length) then none
    else some (z, r)
  | _, _ => none

/-- Whether the head of the report queue waits for a queue place (R157, R184). -/
def reportLacksPlace (s : State) : Bool := (writableReport s).isSome && !mayTakePlace s .report

/-- The head of the report queue takes its turn among the producers from the moment at which it needs a job and lacks a
place: when the ring test finds room for it, and when the queue fills (R157, R184). -/
def noteReport (s : State) : State :=
  { s with path := { s.path with
      waiters := if reportLacksPlace s then joinWaiters .report s.path.waiters else s.path.waiters } }

/-! ## The job queue (R183) -/

/-- A job joins the queue at its end. It may take the last place, and what then lacks one begins to wait: the posting
that waits already goes before the head of the report queue, which till now waited for nothing (R184, log 29). -/
def pushJob (j : Job) (s : State) : State :=
  noteReport (noteWait { s with path := { s.path with jobs := s.path.jobs ++ [j] } })

/-- The bursts that write a run of words: at most 8 words each, in address order; `k` bounds their number. -/
def writeBursts : Nat → Nat → List Word → List Burst
  | 0, _, _ => []
  | _ + 1, _, [] => []
  | k + 1, a, w :: ws => .write a ((w :: ws).take 8) :: writeBursts k (a + 32) ((w :: ws).drop 8)

/-- The bursts that write a run of words from a byte address upward. -/
def burstsOf (a : Nat) (ws : List Word) : List Burst := writeBursts ws.length a ws

/-- One burst against memory: the words it reads join those read before. -/
def runBurst (m : Memory) (got : List Word) : Burst → Memory × List Word
  | .read a n => (m, got ++ readWords m n a)
  | .write a ws => (writeWords m a ws, got)

/-- All the bursts of a job, in order. -/
def runBursts : Memory → List Word → List Burst → Memory × List Word
  | m, got, [] => (m, got)
  | m, got, b :: bs => runBursts (runBurst m got b).1 (runBurst m got b).2 bs

/-- The head job runs what bursts it has left and leaves the queue (R183). -/
def finishHead (s : State) : State :=
  match s.path.jobs with
  | [] => s
  | j :: js =>
    { s with mem := (runBursts s.mem j.got j.bursts).1, path := { s.path with jobs := js } }

/-- The words that the head job has read once it has run. -/
def headWords (s : State) : List Word :=
  match s.path.jobs with
  | [] => []
  | j :: _ => (runBursts s.mem j.got j.bursts).2

/-! ## Events (R194, R197, R200) -/

/-- The event kinds, in the order of their codes 1 to 25 (R200). -/
inductive EventKind where
  | mapInvalid | handlerHalt | stageFault | guardTrip | portClosed | focusLost | guardRelease
  | waferOnStage | waferReturned | lateCompletion | prealignError | alignRequest | alignAccepted
  | alignRefused | readyToGrab | visitTimedOut | realignNeeded | reportWritten | excursion
  | lotStarted | lotEnded | lotHeld | protectDrop | paramClamped | mapReloaded
  deriving DecidableEq, Repr

/-- The categories, in the order of their codes 1 to 5 (R194). -/
inductive Category where
  | fault | focus | handling | review | report
  deriving DecidableEq, Repr

def EventKind.code : EventKind → Nat
  | .mapInvalid => 1 | .handlerHalt => 2 | .stageFault => 3 | .guardTrip => 4 | .portClosed => 5
  | .focusLost => 6 | .guardRelease => 7 | .waferOnStage => 8 | .waferReturned => 9
  | .lateCompletion => 10 | .prealignError => 11 | .alignRequest => 12 | .alignAccepted => 13
  | .alignRefused => 14 | .readyToGrab => 15 | .visitTimedOut => 16 | .realignNeeded => 17
  | .reportWritten => 18 | .excursion => 19 | .lotStarted => 20 | .lotEnded => 21 | .lotHeld => 22
  | .protectDrop => 23 | .paramClamped => 24 | .mapReloaded => 25

def EventKind.category : EventKind → Category
  | .mapInvalid | .handlerHalt | .stageFault | .guardTrip | .portClosed => .fault
  | .focusLost | .guardRelease => .focus
  | .waferOnStage | .waferReturned | .lateCompletion | .prealignError => .handling
  | .alignRequest | .alignAccepted | .alignRefused | .readyToGrab | .visitTimedOut | .realignNeeded => .review
  | .reportWritten | .excursion | .lotStarted | .lotEnded | .lotHeld | .protectDrop | .paramClamped
  | .mapReloaded => .report

/-- Place of a category in the cause set, highest priority first (R194). -/
def Category.place : Category → Nat
  | .fault => 0 | .focus => 1 | .handling => 2 | .review => 3 | .report => 4

/-- The flag of a category in the cause set and in the mask. -/
def Category.bit (c : Category) : BitVec 5 := 1#5 <<< c.place

/-- The four words of an event (R187): kind, category, wafer (255 for none), lost flag; time; A; B. -/
def eventWords (k : EventKind) (wafer : Option Nat) (lost : Bool) (ms a b : Word) : List Word :=
  [word (put k.code 0 8 + put (k.category.place + 1) 8 3 + put (wafer.getD 255) 16 8 + flagBit lost 31),
   ms, a, b]

/-- A ring header (R187): producer index, lost flag, wrap count, 0. -/
def ringHeader (producer : Nat) (lost : Bool) (wrap : Word) : List Word :=
  [word producer, word (flagBit lost 0), wrap, 0]

/-- Event places of an EVENTS zone (R197). -/
def eventPlaces (z : Zone) : Nat := 256 * z.pages - 1

/-- The EVENT job that writes an event at place `n` of the ring, then the ring header (R197). -/
def eventJob (z : Zone) (n : Nat) (event header : List Word) : Job :=
  ⟨.event, burstsOf (z.base + 16 + 16 * n) event ++ burstsOf z.base header, []⟩

/-- The event ring has no place for another event, or the job queue has none for its job (R197). An event takes a free
place also where a FETCH, a REPORT or a layout read still waits for one. DEDUCED (log 39). -/
def eventBlocked (s : State) (z : Zone) : Bool :=
  decide ((s.cmd.evNext + 1) % eventPlaces z = s.cmd.evConsumer) || decide (Config.jobPlaces ≤ depth s)

/-- Writing an event under an EVENTS zone: it is queued, or dropped with the lost-pending flag set (R197). At a
wrap the header carries the increased wrap count (log 35). -/
def writeEvent (z : Zone) (k : EventKind) (wafer : Option Nat) (a b : Word) (s : State) : State :=
  if eventBlocked s z then { s with cmd := { s.cmd with evLost := true } }
  else
    let next := (s.cmd.evNext + 1) % eventPlaces z
    let wrap := if next = 0 then s.cmd.evWrap + 1 else s.cmd.evWrap
    pushJob (eventJob z s.cmd.evNext (eventWords k wafer s.cmd.evLost s.cmd.ms a b)
        (ringHeader next s.cmd.evLost wrap))
      { s with cmd := { s.cmd with evNext := next, evWrap := wrap, evLost := false } }

/-- A category becomes pending (R194). -/
def setCause (c : Category) (s : State) : State :=
  { s with cmd := { s.cmd with causes := s.cmd.causes ||| c.bit } }

/-- Posting an event: its category becomes pending in every case, and the event is written where an
EVENTS zone is in force (R194, R197). -/
def postEvent (k : EventKind) (wafer : Option Nat) (a b : Word) (s : State) : State :=
  let s := setCause k.category s
  match zoneOf s .events with
  | none => s
  | some z => writeEvent z k wafer a b s

/-! ## Link messages -/

/-- A message goes out on a side link. -/
def send (m : LinkMessage) (s : State) : State := { s with out := m :: s.out }

/-- A planner run is due at the end of the step (R35). -/
def wantPlan (s : State) : State := { s with handling := { s.handling with runDue := true } }

end Sys2Proof.Machine
end

