-- ==== Sys2Proof/Machine/Flags.lean ====
section
/-! DEFINITION. The flags of the part and the words that show them: the cause set and the attention line,
the hold set, the command status and the two views of the status cell (R189 to R196), with the numbers
of the codes (R187). -/

namespace Sys2Proof.Machine

/-! ## Code numbers -/

def Location.code : Location → Nat
  | .slot => 0 | .armU => 1 | .armL => 2 | .pa => 3 | .ll => 4 | .stage => 5 | .unknown => 6

def Phase.code : Phase → Nat
  | .waiting => 0 | .skipped => 1 | .toPA => 2 | .prealigning => 3 | .prealigned => 4 | .aligning => 5
  | .reviewing => 6 | .reviewDone => 7 | .returned => 8

def WaferOutcome.code : WaferOutcome → Nat
  | .complete => 1 | .aborted => 2 | .alignFailed => 3 | .prealignFailed => 4 | .cut => 5
  | .notSelected => 6 | .slotEmpty => 7

def AttemptState.code : AttemptState → Nat
  | .none => 0 | .collecting => 1 | .closeWaiting => 2

def Verdict.code : Verdict → Nat
  | .accepted => 1 | .incomplete => 2 | .marksTooClose => 3 | .coeffRange => 4 | .checkFailed => 5

/-- An optional code field: 0 for absent. -/
def optCode {α : Type} (code : α → Nat) (o : Option α) : Nat := (o.map code).getD 0

def LotState.code : LotState → Nat
  | .active => 1 | .pending => 2 | .held => 3 | .aborting => 4 | .closing => 5

def HandlingState.code : HandlingState → Nat
  | .idle => 0 | .busy => 1 | .halted => 2 | .portWait => 3

def VisitState.code : VisitState → Nat
  | .moving => 1 | .settling => 2 | .ready => 3 | .grabbed => 4

def FocusSource.code : FocusSource → Nat
  | .nearest => 0 | .mapMean => 1 | .lotSeed => 2 | .nominal => 3

def FocusState.code : FocusState → Nat
  | .idle => 0 | .acquiring => 1 | .locked => 2 | .holdover => 3 | .lost => 4

def GuardState.code : GuardState → Nat
  | .normal => 0 | .softTripped => 1 | .hardTripped => 2

def PathMode.code : PathMode → Nat
  | .loading => 0 | .mapped => 1 | .transparent => 2

def ResetCause.code : ResetCause → Nat
  | .power => 0 | .line => 1 | .soft => 2

def CommandCode.code : CommandCode → Nat
  | .none => 0 | .accepted => 1 | .noMap => 2 | .lotQueueFull => 3 | .portInUse => 4
  | .portNotReady => 5 | .layoutInvalid => 6 | .noLot => 7 | .notReviewing => 8 | .notHalted => 9
  | .notUnknown => 10 | .occupied => 11 | .stillOut => 12 | .unknownCommand => 13 | .inReset => 14
  | .overrun => 15

def doneCode : DoneResult → Nat
  | .ok => 0 | .notPicked => 1 | .notPlaced => 2 | .fault => 3

def portNumber : Port → Nat
  | .one => 1 | .two => 2

/-! ## Cause set and attention line (R194 to R196) -/

/-- The categories that are pending and not masked. -/
def unmaskedCauses (s : State) : BitVec 5 := s.cmd.causes &&& ~~~s.cmd.mask

/-- The attention line: asserted while a category is both pending and not masked (R196). -/
def attentionLine (s : State) : Bool := unmaskedCauses s != 0

/-- The highest-priority category that is pending and not masked (R195). -/
def topCause (s : State) : Option Category :=
  [Category.fault, .focus, .handling, .review, .report].find? fun c => (unmaskedCauses s).getLsbD c.place

/-- The word a read of the cause cell returns (R195). -/
def causeWord (s : State) : Word :=
  word (optCode (fun c : Category => c.place + 1) (topCause s) + put s.cmd.causes.toNat 8 5
    + put s.cmd.mask.toNat 16 5)

/-- The effect of a read of the cause cell on the state, once it is answered: the category returned is cleared, and
all eight reported marks with it (R179, R195). -/
def readCauseCell (s : State) : State :=
  { s with
    cmd := { s.cmd with
      causes := match topCause s with
        | none => s.cmd.causes
        | some c => s.cmd.causes &&& ~~~c.bit }
    path := { s.path with reported := List.replicate 8 false } }

/-! ## Hold set (R91) -/

/-- Whether no reason holds the dispatcher. -/
def HoldSet.isEmpty (h : HoldSet) : Bool := !h.suspend && !h.stage && h.align.isNone && !h.guard

/-- The four reasons as flags from bit `lo`: SUSPEND, STAGE, ALIGN, GUARD. -/
def holdBits (h : HoldSet) (lo : Nat) : Nat :=
  flagBit h.suspend lo + flagBit h.stage (lo + 1) + flagBit h.align.isSome (lo + 2) + flagBit h.guard (lo + 3)

/-! ## Command status and status cell (R189, R193) -/

/-- The in-progress flag: set while a LOT_START is in progress, with the code 0 it shows itself or the OVERRUN of
a later command, and clear with the code of a command refused by another test (R189, log 38). -/
def inProgressFlag (s : State) : Bool :=
  s.cmd.lotStart.isSome && (s.cmd.code == .none || s.cmd.code == .overrun)

/-- The command status word (R189). -/
def commandStatusWord (s : State) : Word :=
  word (s.cmd.code.code + put s.cmd.echoed.toNat 8 8 + flagBit (inProgressFlag s) 16
    + put s.cmd.count.toNat 24 8)

/-- State of a lot position, 0 for empty. -/
def lotCode (l : Option Lot) : Nat := optCode (fun l : Lot => l.state.code) l

/-- The status cell with the status view at 0. -/
def statusView0 (s : State) : Word :=
  word (s.path.mode.code + flagBit s.cmd.resetting 2 + put s.cmd.resetCause.code 3 2 + flagBit s.cmd.warm 5
    + put (lotCode s.lots.active) 6 3 + put (lotCode s.lots.second) 9 3
    + put s.handling.state.code 12 2 + holdBits s.visit.hold 14 + put s.focus.state.code 18 3
    + put s.guard.state.code 21 2 + flagBit s.path.reloadPending 23)

/-- The status cell with the status view at 1; a drop count above 32,767 reads 32,767. -/
def statusView1 (s : State) : Word :=
  let drops := match s.path.lastDrop with
    | none => 0
    | some i => s.path.drops.getD i 0
  word (put (depth s) 0 5 + put s.report.queue.length 6 6 + put (s.path.lastDrop.getD 15) 12 4
    + put (min drops 32767) 16 15 + flagBit true 31)

/-- The status cell, in the view that the window select cell chooses (R193). -/
def statusWord (s : State) : Word :=
  if s.cmd.windowSel.getLsbD 8 then statusView1 s else statusView0 s

end Sys2Proof.Machine
end

