-- ==== Sys2Proof/Machine/Operands.lean ====
section
/-! DEFINITION. The operand forms: the words of the upstream bus that the rows name, byte lanes laid over
a copy, and the fields of the records that jobs read from memory (R166, R187). -/

namespace Sys2Proof.Machine

/-! ## Words of the upstream bus -/

/-- Word address of the cell at a byte offset of the configuration page. -/
def cellIndex (offset : Nat) : BitVec 22 := BitVec.ofNat 22 ((Config.pageBase + offset) / 4)

/-- The upstream word of a write to a cell of the configuration page. -/
def cellWrite (offset : Nat) (w : WordWrite) : UpWord := ⟨cellIndex offset, .write w.data w.lanes, w.more⟩

/-- The upstream word of a write to the command cell with lane 0 enabled and holding `value` (R188). -/
def commandWrite (value : BitVec 8) (w : CommandWrite) : UpWord :=
  ⟨cellIndex 0x100, .write (w.upper ++ value : BitVec (24 + 8)) (w.lanes ++ 1#1 : BitVec (3 + 1)), w.more⟩

/-- The upstream word of a write to memory. -/
def memoryWrite (index : BitVec 22) (w : WordWrite) : UpWord := ⟨index, .write w.data w.lanes, w.more⟩

/-- The words of a read burst of `n` words from a cell of the configuration page, in address order (R182). -/
def readBurst (offset : Nat) : Nat → List UpWord
  | 0 => []
  | n + 1 => ⟨cellIndex offset, .read, decide (0 < n)⟩ :: readBurst (offset + 4) n

/-- The words of a read burst with the cause cell. -/
def causeBurst (b : ReadBurst) : List UpWord :=
  readBurst (0x128 - 4 * b.before.val) (b.before.val + 1 + b.after.val)

/-- The byte lanes a write enables, laid over the present copy of a cell (R166). -/
def overlay (old new : Word) (lanes : BitVec 4) : Word :=
  wordOfLanes (if lanes.getLsbD 0 then lane new 0 else lane old 0)
    (if lanes.getLsbD 1 then lane new 1 else lane old 1)
    (if lanes.getLsbD 2 then lane new 2 else lane old 2)
    (if lanes.getLsbD 3 then lane new 3 else lane old 3)

/-! ## Records (R187, Memory layouts) -/

/-- A signed 16-bit field of a word. -/
def signed16 (w : Word) (lo : Nat) : Int := (w.extractLsb' lo 16).toInt

/-- Word `n` of the words a job has read. -/
def nth (ws : List Word) (n : Nat) : Word := ws.getD n 0

/-- An intake record (R71), from words 1 to 6 of its slot. -/
structure IntakeRecord where
  wafer      : Nat
  roughClass : Nat
  priority   : Nat
  defectId   : Word
  col        : Int
  row        : Int
  inDie      : Point
  size       : Word
  deriving DecidableEq, Repr

def IntakeRecord.ofWords (ws : List Word) : IntakeRecord where
  wafer := bits (nth ws 0) 0 8
  roughClass := bits (nth ws 0) 8 8
  priority := bits (nth ws 0) 16 8
  defectId := nth ws 1
  col := signed16 (nth ws 2) 0
  row := signed16 (nth ws 2) 16
  inDie := .ofWords (nth ws 3) (nth ws 4)
  size := nth ws 5

/-- A RESULT record (R101). -/
structure ResultRecord where
  wafer      : Nat
  finalClass : Nat
  found      : Nat
  quality    : Nat
  defectId   : Word
  offset     : Point
  deriving DecidableEq, Repr

def ResultRecord.ofWords (ws : List Word) : ResultRecord where
  wafer := bits (nth ws 0) 0 8
  finalClass := bits (nth ws 0) 8 8
  found := bits (nth ws 0) 16 8
  quality := bits (nth ws 0) 24 8
  defectId := nth ws 1
  offset := .ofWords (nth ws 2) (nth ws 3)

/-- A mark record (section "Mark records" before R50); role 0 PRIMARY, 1 SECONDARY, 2 CHECK. -/
structure MarkRecord where
  wafer : Nat
  role  : Nat
  mark  : Mark
  deriving DecidableEq, Repr

def MarkRecord.ofWords (ws : List Word) : MarkRecord where
  wafer := bits (nth ws 0) 0 8
  role := bits (nth ws 0) 8 8
  mark := ⟨.ofWords (nth ws 1) (nth ws 2), .ofWords (nth ws 3) (nth ws 4)⟩

/-- A layout record (R4). -/
def Layout.ofWords (ws : List Word) : Layout where
  pitch := .ofWords (nth ws 0) (nth ws 1)
  origin := .ofWords (nth ws 2) (nth ws 3)
  nominalZ := (nth ws 4).toInt
  focusOffset := (nth ws 5).toInt

/-- The kind of a zone descriptor, by its code (R187). -/
def ZoneKind.ofCode : Nat → ZoneKind
  | 1 => .intake | 2 => .results | 3 => .marks | 4 => .layout | 5 => .events | 6 => .reports
  | 7 => .guarded | _ => .unused

/-- Zone descriptor `i` of the 36 words of a map block (R187). -/
def Zone.ofWords (ws : List Word) (i : Nat) : Zone where
  kind := .ofCode (bits (nth ws (4 + 4 * i)) 0 3)
  high := (nth ws (4 + 4 * i)).getLsbD 4
  exponent := bits (nth ws (4 + 4 * i)) 8 3
  complement := (nth ws (4 + 4 * i)).getLsbD 12
  page := bits (nth ws (5 + 4 * i)) 0 12
  pages := bits (nth ws (6 + 4 * i)) 0 11

/-- The eight descriptors of a map block. -/
def zonesOfWords (ws : List Word) : List Zone := (List.range 8).map (Zone.ofWords ws)

/-- The zone count and the generation of a map header (R187). -/
def headerCount (ws : List Word) : Nat := bits (nth ws 0) 0 4
def headerGeneration (ws : List Word) : Nat := bits (nth ws 0) 16 16

/-- Fields of a tag word: sequence number and last flag (R187). -/
def tagSeq (w : Word) : Byte := lane w 0
def tagLast (w : Word) : Bool := w.getLsbD 30

/-! ## Acceptance words (R74, R187) -/

/-- The acceptance codes, in the order of their codes 1 to 11. -/
inductive AcceptCode where
  | accepted | badField | notInLot | waferClosed | duplicate | waferFull | tableFull | notAligning
  | markExcess | late | noVisit
  deriving DecidableEq, Repr

def AcceptCode.code : AcceptCode → Nat
  | .accepted => 1 | .badField => 2 | .notInLot => 3 | .waferClosed => 4 | .duplicate => 5
  | .waferFull => 6 | .tableFull => 7 | .notAligning => 8 | .markExcess => 9 | .late => 10 | .noVisit => 11

/-- Code, echoed sequence number and entry index. -/
def acceptWord (c : AcceptCode) (seq : Byte) (entry : Nat) : Word :=
  word (put c.code 0 8 + put seq.toNat 8 8 + put entry 16 11)

/-- The ACCEPT job that answers a slot (R177). -/
def acceptJob (slot : Nat) (c : AcceptCode) (seq : Byte) (entry : Nat) : Job :=
  ⟨.accept slot, [.write slot [acceptWord c seq entry]], []⟩

end Sys2Proof.Machine
end

