-- ==== Sys2Proof/Machine/Reports.lean ====
section
/-! DEFINITION. The report unit: accumulators, the words of the three kinds of report, the report queue and
the report ring (R147 to R160). -/

namespace Sys2Proof.Machine

/-! ## Accumulators (R147, R148) -/

/-- A count of a list increased by one, up to a bound. -/
def bump (l : List Nat) (i bound : Nat) : List Nat := l.modify i fun n => min bound (n + 1)

/-- An accumulator increased by one; it saturates at 1,024 (R147). -/
def countUp (n : Nat) : Nat := min Config.waferEntries (n + 1)

/-- The terminal count of an entry's state. -/
def countTerminal (st : EntryState) (a : WaferAcc) : WaferAcc :=
  match st with
  | .done => { a with done := countUp a.done }
  | .notFound => { a with notFound := countUp a.notFound }
  | .sampledOut => { a with sampledOut := countUp a.sampledOut }
  | .skipped => { a with skipped := countUp a.skipped }
  | .outOfRange => { a with outOfRange := countUp a.outOfRange }
  | .timedOut => { a with timedOut := countUp a.timedOut }
  | .focusFailed => { a with focusFailed := countUp a.focusFailed }
  | .queued | .moving | .settling | .ready | .grabbed => a

/-- The flag counts of an entry's visit part. -/
def countFlags (v : Option VisitPart) (a : WaferAcc) : WaferAcc :=
  match v with
  | none => a
  | some p =>
    { a with
      predictedFocus := if p.predictedFocus then countUp a.predictedFocus else a.predictedFocus
      noStrobe := if p.noStrobe then countUp a.noStrobe else a.noStrobe }

/-- The offset sum and the class count of a DONE entry (R148). -/
def countResult (st : EntryState) (r : Option ResultPart) (a : WaferAcc) : WaferAcc :=
  match st, r with
  | .done, some r =>
    { a with
      offsetSum := a.offsetSum + r.offset.x.natAbs + r.offset.y.natAbs
      classCounts := bump a.classCounts r.finalClass Config.waferEntries }
  | _, _ => a

/-- An entry handed over in a terminal state, added to its wafer's accumulators (R82, R147). -/
def countEntry (e : Entry) (a : WaferAcc) : WaferAcc :=
  countResult e.state e.result (countFlags e.visitPart (countTerminal e.state a))

/-- The hand-over of an entry to the report unit (R82). -/
def handOver (e : Entry) (s : State) : State :=
  updWafer e.wafer (fun w => { w with acc := w.acc.map (countEntry e) }) s

/-- An entry of the table, handed over in the state it has. -/
def handOverAt (i : Nat) (s : State) : State :=
  match entryAt s i with
  | none => s
  | some e => handOver e s

/-! ## Report words -/

/-- Kinds of report record (R187): WAFER 1, LOT 2, TRACE 3, PAD 4. -/
def ReportTag.kind : ReportTag → Nat
  | .wafer _ => 1 | .lot _ => 2 | .trace _ => 3

/-- The wafer field of a report's REPORT_WRITTEN (R158). -/
def ReportTag.waferField : ReportTag → Option Nat
  | .wafer i => some i | .lot _ => none | .trace i => some i

/-- Report header: kind and length in words. -/
def reportHeader (kind len : Nat) : Word := word (put kind 0 8 + put len 8 24)

/-- One word for each class with a count above zero, in rising class order (R151, R153). -/
def classPairs : Nat → List Nat → List Word
  | _, [] => []
  | c, n :: l => if 0 < n then word (put c 0 8 + put n 16 16) :: classPairs (c + 1) l else classPairs (c + 1) l

/-- The runs of watches 1 to 4, one byte each (R150, word 24). -/
def runsWord (runs : List Nat) : Word :=
  word (put (runs.getD 0 0) 0 8 + put (runs.getD 1 0) 8 8 + put (runs.getD 2 0) 16 8 + put (runs.getD 3 0) 24 8)

/-- Mean offset: the offset sum over twice the DONE count, rounded; 0 with no DONE entry (R151). -/
def meanOffset (a : WaferAcc) : Nat :=
  if a.done = 0 then 0 else (roundDiv a.offsetSum (2 * a.done)).toNat

/-- The focus unit's answer to a report: point count and mean z of the map for the wafer on the stage, and
0 and 0 otherwise (R126). -/
def mapAnswer (s : State) (i : Nat) : Nat × Int :=
  if stageWafer s = some i then (s.focus.map.length, meanOf (s.focus.map.map (·.z))) else (0, 0)

/-- The words of a wafer report (R150), with the watch runs as they stand after it. -/
def waferReportWords (s : State) (i : Nat) (w : Wafer) (a : WaferAcc) (runs : List Nat) : List Word :=
  let pairs := classPairs 0 a.classCounts
  [reportHeader 1 (26 + pairs.length), s.cmd.ms, w.lotNumber, word i,
   word (optCode WaferOutcome.code w.outcome), word a.accepted,
   word a.done, word a.notFound, word a.sampledOut, word a.skipped, word a.outOfRange, word a.timedOut,
   word a.focusFailed, word a.predictedFocus, word a.noStrobe, word (meanOffset a),
   wordOfInt w.drift.x, wordOfInt w.drift.y,
   wordOfInt ((w.transform.map (·.a)).getD 0), wordOfInt ((w.transform.map (·.b)).getD 0),
   word w.align.used, (w.prealign.map (·.notch)).getD 0,
   word (mapAnswer s i).1, wordOfInt (mapAnswer s i).2, runsWord runs, word pairs.length] ++ pairs

/-- How many wafers of a lot have an outcome. -/
def countOutcome (s : State) (run : Nat) (o : WaferOutcome) : Nat :=
  (wafersOfLot s run).countP fun i => (waferAt s i).any fun w => w.outcome == some o

/-- The excursion flags, flag of watch `n` in bit `n - 1`. -/
def flagsWord (flags : List Bool) : Word :=
  word (flagBit (flags.getD 0 false) 0 + flagBit (flags.getD 1 false) 1 + flagBit (flags.getD 2 false) 2
    + flagBit (flags.getD 3 false) 3)

/-- The words of a lot report (R153). -/
def lotReportWords (s : State) (l : Lot) (a : LotAcc) : List Word :=
  let pairs := classPairs 0 a.totals
  [reportHeader 2 (13 + pairs.length), s.cmd.ms, l.number, word (optCode portNumber l.port),
   word (countOutcome s l.run .complete), word (countOutcome s l.run .aborted),
   word (countOutcome s l.run .alignFailed), word (countOutcome s l.run .prealignFailed),
   word (countOutcome s l.run .cut),
   word (countOutcome s l.run .notSelected + countOutcome s l.run .slotEmpty),
   flagsWord a.flags, word (flagBit a.saturated 0), word pairs.length] ++ pairs

/-- The two words of a trace sample (R154). -/
def sampleWords (t : TraceSample) : List Word :=
  [t.z, word (put t.quality.toNat 0 8 + put t.state.code 8 8)]

/-- The words of a trace report (R154). -/
def traceReportWords (t : Trace) : List Word :=
  [reportHeader 3 (6 + 2 * t.samples.length), t.lotNumber, word t.wafer, word t.entry, t.defectId,
   word t.samples.length] ++ t.samples.flatMap sampleWords

/-! ## The report ring (R156, R157) -/

/-- Byte address of word `k` of the data area. -/
def ringAddr (z : Zone) (k : Nat) : Nat := z.base + 16 + 4 * k

/-- The REPORT job that writes a report: a PAD header if the room is too short, the record, then the ring
header as it will stand after the record (R157, R158). -/
def reportJob (s : State) (z : Zone) (r : Report) : Job :=
  let n := ringWords z
  let len := r.words.length
  let padded := decide (ringRoom s n < len)
  let start := if padded then 0 else s.report.producer
  let next := (start + len) % n
  let wrap := if padded || decide (start + len = n) then s.report.wrap + 1 else s.report.wrap
  let pad := if padded then [Burst.write (ringAddr z s.report.producer) [reportHeader 4 (ringRoom s n)]] else []
  ⟨.report ⟨start, next, wrap, some r.tag⟩,
   pad ++ burstsOf (ringAddr z start) r.words ++ burstsOf z.base (ringHeader next false wrap), []⟩

/-- The job for the head of the report queue, where it may be written (R157). -/
def nextReportJob (s : State) : Option Job := (writableReport s).map fun x => reportJob s x.1 x.2

/-- The ring test, made on each event that can change its answer: a head that has room but no queue place
waits for one, and a head without room waits for no place (R157, R184). -/
def ringTest (s : State) : State := if (writableReport s).isSome then noteReport s else endWait .report s

/-- A report joins the report queue, behind every report built before it (R155). -/
def joinReport (r : Report) (s : State) : State :=
  ringTest { s with report := { s.report with queue := s.report.queue ++ [r] } }

/-! ## Lot accumulators (R152) -/

/-- The class counts of a wafer report added to the lot's totals, each saturated at 65,535. -/
def addTotals : List Nat → List Nat → List Nat
  | t :: ts, c :: cs => min 65535 (t + c) :: addTotals ts cs
  | ts, _ => ts

/-- Whether an addition is cut at 65,535. -/
def cutsTotals : List Nat → List Nat → Bool
  | t :: ts, c :: cs => decide (65535 < t + c) || cutsTotals ts cs
  | _, _ => false

/-- The run of a watch after a wafer report (R162). -/
def watchRun (o : Option WaferOutcome) (counts : List Nat) (w : Watch) (run : Nat) : Nat :=
  if w.enable then
    match o with
    | some .complete | some .aborted =>
      if w.threshold ≤ counts.getD w.cls 0 then min 25 (run + 1) else 0
    | _ => run
  else run

/-- Whether a watch fires: the report increased its run to exactly K (R163). -/
def watchFires (o : Option WaferOutcome) (counts : List Nat) (w : Watch) (run : Nat) : Bool :=
  decide (run < watchRun o counts w run) && watchRun o counts w run == w.runLength

/-- The lot accumulators after a wafer report (R152, R162, R163). -/
def countReport (o : Option WaferOutcome) (counts : List Nat) (ws : List Watch) (a : LotAcc) : LotAcc where
  totals := addTotals a.totals counts
  saturated := a.saturated || cutsTotals a.totals counts
  runs := List.zipWith (watchRun o counts) ws a.runs
  flags := List.zipWith (fun f b => f || b) (List.zipWith (watchFires o counts) ws a.runs) a.flags

end Sys2Proof.Machine
end

