-- ==== Sys2Proof/Machine/Focus.lean ====
section
/-! DEFINITION. The focus unit: the output and its bounds, the prediction, the lock, the focus map, the lot
seed and the trace (R115 to R138). -/

namespace Sys2Proof.Machine

/-! ## The focus output (R122 to R125) -/

/-- The height guard holds the focus output (R139). -/
def guardHolds (s : State) : Bool := s.guard.state != .normal

/-- The output takes a value; a new value is sent, and the first one sent settles the debt (R124, R137). -/
def driveOutput (v : Int) (s : State) : State :=
  if v = s.focus.output then s
  else send (.focusSet v) { s with focus := { s.focus with output := v, owed := false } }

/-- The bounds in force are taken from the parameter copy (R123). -/
def renewBounds (s : State) : State :=
  { s with focus := { s.focus with boundMin := param s 16, boundMax := param s 17 } }

/-- The present output clamped to renewed bounds (R123); nothing while the guard holds the output. -/
def reclampOutput (s : State) : State :=
  if guardHolds s then s
  else driveOutput (clamp (param s 16) (param s 17) s.focus.output) (renewBounds s)

/-- Setting the output: bounds renewed, value clamped; while the guard holds it, nothing (R122, R125). -/
def setOutput (v : Int) (s : State) : State :=
  if guardHolds s then s
  else driveOutput (clamp (param s 16) (param s 17) v) (renewBounds s)

/-- The focus offset of the visit's wafer's lot (R122). -/
def visitOffset (s : State) : Int :=
  match s.visit.current with
  | none => 0
  | some v => ((settingsOf s v.wafer).map (·.layout.focusOffset)).getD 0

/-- The value that the focus state calls for (R122), before the clamp of `setOutput`. -/
def calledFor (s : State) : Int :=
  match s.focus.state with
  | .idle => s.focus.output
  | .locked => meanOf s.focus.accepted + visitOffset s
  | .acquiring | .holdover | .lost => s.focus.predicted.getD s.focus.output

/-- The output set to the value the focus state calls for. -/
def refreshOutput (s : State) : State := setOutput (calledFor s) s

/-! ## Prediction (R131 to R133) -/

/-- Squared distance in micrometres, each component rounded (R128, R131). -/
def distance2 (p q : Point) : Nat :=
  let du := roundDiv (p.x - q.x) 1000
  let dv := roundDiv (p.y - q.y) 1000
  (du * du + dv * dv).toNat

/-- The map points with their squared distance to a target, newest first. -/
def measured (map : List MapPoint) (t : Point) : List (Nat × Int) :=
  map.reverse.map fun p => (distance2 t p.pos, p.z)

/-- The candidates used: the four nearest within the radius; the newer first among equals (R131). -/
def candidates (map : List MapPoint) (t : Point) (radius : Nat) : List (Nat × Int) :=
  (sortBy (fun a b => decide (a.1 ≤ b.1))
    ((measured map t).filter fun c => decide (c.1 ≤ radius * radius))).take 4

/-- The height the candidates used give (R132). -/
def weighted (cs : List (Nat × Int)) : Int :=
  match cs.find? fun c => c.1 == 0 with
  | some c => c.2
  | none =>
    let ws := cs.map fun c => 2 ^ 32 / c.1
    if ws.sum = 0 then meanOf (cs.map (·.2))
    else roundDiv ((List.zipWith (fun (w : Nat) (c : Nat × Int) => (w : Int) * c.2) ws cs).sum) ws.sum

/-- The predicted height at a target for a wafer, with its source (R131 to R133). -/
def predict (s : State) (i : Nat) (t : Point) : Int × FocusSource :=
  let cs := candidates s.focus.map t (paramNat s 15)
  let run := (waferAt s i).map (·.run)
  if !cs.isEmpty then (weighted cs, .nearest)
  else if !s.focus.map.isEmpty then (meanOf (s.focus.map.map (·.z)), .mapMean)
  else
    match s.focus.seed with
    | some d => if run = some d.run then (d.z, .lotSeed) else (nominal, .nominal)
    | none => (nominal, .nominal)
where
  nominal : Int := ((settingsOf s i).map (·.layout.nominalZ)).getD 0

/-! ## The focus trace (R134 to R136) -/

/-- Whether a trace starts for a visit of an entry (R134). -/
def traceMatches (st : Settings) (cls : Nat) : Bool :=
  let same := (cls &&& st.traceMask) == (st.traceClass &&& st.traceMask)
  st.traceEnable && (same != st.traceMismatch)

/-- The trace buffer is free (R136). -/
def traceFree (s : State) : Bool := s.focus.trace.isNone && !s.focus.traceHanded

/-- The decision whether a trace starts, at the beginning of a visit (R134). -/
def startTrace (e : Entry) (s : State) : State :=
  match settingsOf s e.wafer, waferAt s e.wafer with
  | some st, some w =>
    if traceMatches st e.roughClass && traceFree s then
      { s with focus := { s.focus with trace := some ⟨e.wafer, e.index, e.defectId, w.lotNumber, []⟩ } }
    else s
  | _, _ => s

/-- Recording ends: a trace with samples is handed to the report unit, an empty one is dropped (R136). -/
def endTrace (s : State) : State :=
  match s.focus.trace with
  | none => s
  | some t =>
    if t.samples.isEmpty then { s with focus := { s.focus with trace := none } }
    else
      joinReport ⟨.trace t.wafer, traceReportWords t⟩
        { s with focus := { s.focus with trace := none, traceHanded := true } }

/-- A sample joins the trace being recorded, with the focus state after it; the 128th ends it (R135). -/
def recordSample (z : Word) (q : Byte) (s : State) : State :=
  match s.focus.trace with
  | none => s
  | some t =>
    let t' := { t with samples := t.samples ++ [⟨z, q, s.focus.state⟩] }
    let s' := { s with focus := { s.focus with trace := some t' } }
    if Config.traceSamples ≤ t'.samples.length then endTrace s' else s'

/-! ## Beginning and end of a visit (R117, R121) -/

/-- The focus unit at the beginning of a visit: ACQUIRING with cleared counts, the output at the
predicted output, and the decision about a trace (R117, R134). -/
def focusBegin (e : Entry) (zPred : Int) (offset : Int) (s : State) : State :=
  let s1 := if guardHolds s then s else renewBounds s
  let out := clamp s1.focus.boundMin s1.focus.boundMax (zPred + offset)
  startTrace e <| setOutput out
    { s1 with focus := { s1.focus with
        state := .acquiring, unsettled := false, run := 0, settle := 0, holdover := 0, accepted := [],
        predicted := some out, strobeHeight := none } }

/-- The lock fields as they are between visits (R121); the output stays. -/
def focusIdle (s : State) : State :=
  { s with focus := { s.focus with
      state := .idle, unsettled := false, run := 0, settle := 0, holdover := 0, accepted := [],
      predicted := none, strobeHeight := none } }

/-- The focus unit is told that the visit has ended (R121, R135). -/
def focusEnd (s : State) : State := endTrace (focusIdle s)

/-! ## The focus lock (R116, R118 to R120) -/

/-- A sample is valid when its quality is at or above the threshold (R115). -/
def validSample (s : State) (q : Byte) : Bool := decide (param s 10 ≤ (q.toNat : Int))

/-- A sample is accepted when it is valid and within the capture window of z_pred (R116). -/
def acceptsSample (s : State) (zPred : Int) (z : Word) (q : Byte) : Bool :=
  validSample s q && decide (((z.toInt - zPred).natAbs : Int) ≤ param s 11)

/-- The newest four of the accepted samples (R116). -/
def joinAccepted (l : List Int) (z : Int) : List Int := (l ++ [z]).drop (l.length + 1 - 4)

/-- The counts and the state after an accepted sample (R118 to R120), `L` and `P` being the lock count and
the settle count. -/
def lockAccepted (L P : Nat) (f : Focus) : Focus :=
  match f.state with
  | .idle => f
  | .acquiring =>
    if L ≤ f.run + 1 then { f with state := .locked, unsettled := false, run := 0 }
    else { f with run := f.run + 1 }
  | .lost =>
    if L ≤ f.run + 1 then { f with state := .locked, unsettled := P != 0, run := 0, settle := 0 }
    else { f with run := f.run + 1 }
  | .holdover => { f with state := .locked, unsettled := P != 0, settle := 0 }
  | .locked =>
    if f.unsettled then { f with settle := f.settle + 1, unsettled := decide (f.settle + 1 < P) } else f

/-- The counts and the state after an unaccepted sample (R118, R119), `H` being the holdover count. -/
def lockUnaccepted (H : Nat) (f : Focus) : Focus :=
  match f.state with
  | .idle => f
  | .acquiring | .lost => { f with run := 0 }
  | .locked => { f with state := .holdover, unsettled := true, holdover := 0, settle := 0 }
  | .holdover =>
    if H ≤ f.holdover + 1 then { f with state := .lost, holdover := f.holdover + 1, run := 0 }
    else { f with holdover := f.holdover + 1 }

/-- The output after a sample: set on entry to each state, and on each accepted sample in LOCKED (R122). -/
def lockOutput (before : FocusState) (s : State) : State :=
  if s.focus.state ≠ before || s.focus.state = .locked then refreshOutput s else s

/-- FOCUS_LOST is posted on each entry to LOST (R119). -/
def lostEvent (before : FocusState) (v : Visit) (s : State) : State :=
  if s.focus.state = .lost ∧ before ≠ .lost then
    postEvent .focusLost (some v.wafer) (word v.entry) (wordOfInt v.zPred) s
  else s

/-- The lock state machine takes a sample of the visit in flight (R116, R118 to R120). -/
def lockSample (v : Visit) (z : Word) (q : Byte) (s : State) : State :=
  let f := s.focus
  let f' :=
    if acceptsSample s v.zPred z q then
      { lockAccepted (paramNat s 12) (paramNat s 13) f with accepted := joinAccepted f.accepted z.toInt }
    else lockUnaccepted (paramNat s 14) f
  lostEvent f.state v (lockOutput f.state { s with focus := f' })

/-- The first FOCUS_SET owed after a power-on or line reset goes out with the first sample, with the
present output (R115, R137), also where the same sample trips the guard. DEDUCED (log 12). -/
def payDebt (s : State) : State :=
  if s.focus.owed then send (.focusSet s.focus.output) { s with focus := { s.focus with owed := false } } else s

/-- The strobe height, recorded at the strobe edge while LOCKED (R127). -/
def recordStrobe (s : State) : State :=
  { s with focus := { s.focus with
      strobeHeight := if s.focus.state = .locked then some (meanOf s.focus.accepted) else none } }

/-! ## The focus map and the lot seed (R128 to R130) -/

/-- Squared replacement radius, 500 micrometres. -/
def nearLimit : Nat := 250000

/-- The map with a point inserted: near points go, else the oldest of 64 goes (R128). -/
def insertPoint (map : List MapPoint) (p : MapPoint) : List MapPoint :=
  let kept := map.filter fun q => decide (nearLimit ≤ distance2 p.pos q.pos)
  if kept.length = map.length ∧ Config.mapPoints ≤ map.length then kept.tail ++ [p] else kept ++ [p]

/-- A map point taken at the end of a visit (R103, step 3). -/
def takePoint (pos : Point) (z : Int) (s : State) : State :=
  { s with focus := { s.focus with map := insertPoint s.focus.map ⟨pos, z⟩ } }

/-- A wafer of a lot run leaves the stage: the seed takes the mean of a map that holds a point, and the map
is emptied (R129). -/
def stageDeparture (run : Nat) (s : State) : State :=
  { s with focus := { s.focus with
      seed := if s.focus.map.isEmpty then s.focus.seed else some ⟨meanOf (s.focus.map.map (·.z)), run⟩
      map := [] } }

/-- The seed is cleared when its owner lot ends (R130). -/
def clearSeed (run : Nat) (s : State) : State :=
  { s with focus := { s.focus with seed := s.focus.seed.filter fun d => d.run != run } }

end Sys2Proof.Machine
end

