-- ==== Sys2Proof/Machine/Lots.lean ====
section
/-! DEFINITION. The lot unit's tests and the end of a lot (R6, R9, R12, R13, R20), and the beginning of a
map reload, which the end of the last lot may cause (R172). -/

namespace Sys2Proof.Machine

/-- The phases that hold a lot open (R12). -/
def Phase.isOpen : Phase → Bool
  | .waiting | .toPA | .prealigning | .prealigned | .aligning | .reviewing => true
  | .skipped | .reviewDone | .returned => false

/-- The phases in which a wafer is home for good (R12). -/
def Phase.isHome : Phase → Bool
  | .skipped | .returned => true
  | .waiting | .toPA | .prealigning | .prealigned | .aligning | .reviewing | .reviewDone => false

/-- A lot takes a state; the planner runs when a lot changes state (R35). -/
def setLotState (run : Nat) (st : LotState) (s : State) : State :=
  wantPlan (updLot run (fun l => { l with state := st }) s)

/-- A map reload begins: it drains the job queue, and every upstream access waits from now on (R172). -/
def beginReload (s : State) : State :=
  endWait .fetch { s with path := { s.path with draining := true, upBurst := .none } }

/-- A pending reload begins when the lot queue is empty and the part is not RESETTING (R13, R172). -/
def reloadIfDue (s : State) : State :=
  if s.path.reloadPending && (lotList s).isEmpty && !s.cmd.resetting then beginReload s else s

/-- The state a lot has in the active position after its promotion (R13). -/
def promoted (l : Lot) : Lot := if l.state = .pending then { l with state := .active } else l

/-- The lot of a run leaves the queue; from the active position, the pending lot moves up (R13). -/
def leaveQueue (run : Nat) (q : LotQueue) : LotQueue :=
  if q.active.any fun l => l.run == run then ⟨q.second.map promoted, none⟩
  else ⟨q.active, q.second.filter fun l => l.run != run⟩

/-- The end of a lot (R13): records freed, settings and protection gone with the lot, seed cleared (R130),
LOT_ENDED posted, the pending lot promoted, a pending reload done once the queue is empty. -/
def endLot (l : Lot) (s : State) : State :=
  let completed := countOutcome s l.run .complete
  let s1 := { clearSeed l.run s with
    wafers := s.wafers.map fun o => o.filter fun w => w.run != l.run
    lots := leaveQueue l.run s.lots }
  reloadIfDue (wantPlan (postEvent .lotEnded none l.number (word completed) s1))

/-- Every wafer of the lot is RETURNED or SKIPPED, and every wafer report of it is written, that is, no
record of it holds an accumulator link (R12, R14). -/
def readyForReport (s : State) (run : Nat) : Bool :=
  allOfLot s run fun w => w.phase.isHome && w.acc.isNone

/-- The request condition of R12 for a CLOSING lot: the lot report is built and requested once; lot 0 has
none and ends (R20). While the part is RESETTING no report is built (R165). -/
def requestTest (run : Nat) (s : State) : State :=
  match lotOfRun s run with
  | none => s
  | some l =>
    if l.state = .closing && readyForReport s run && !l.reportRequested then
      match l.acc with
      | some a =>
        if s.cmd.resetting then s
        else
          joinReport ⟨.lot run, lotReportWords s l a⟩
            (updLot run (fun l => { l with reportRequested := true }) s)
      | none => if isLotZero l then endLot l s else s
    else s

/-- The closing condition of R12, tested when a wafer of the lot changes phase and at its acceptance; then
the request condition. -/
def closingTest (run : Nat) (s : State) : State :=
  let s1 :=
    match lotOfRun s run with
    | none => s
    | some l =>
      if l.state ≠ .closing && allOfLot s run (fun w => !w.phase.isOpen) then setLotState run .closing s else s
  requestTest run s1

/-- The closing test for the lot of a wafer. -/
def closingTestOf (i : Nat) (s : State) : State :=
  match waferAt s i with
  | none => s
  | some w => closingTest w.run s

/-- Whether a hold request would change a lot (R9). -/
def mayBeHeld (l : Lot) : Bool := l.state == .active || l.state == .pending

/-- The hold an excursion watch with action HOLD asks for (R9). -/
def holdByWatch (run watch : Nat) (s : State) : State :=
  match lotOfRun s run with
  | none => s
  | some l =>
    if mayBeHeld l then postEvent .lotHeld none l.number (word watch) (setLotState run .held s) else s

/-- A lot may be fed when it is ACTIVE, or PENDING behind a lot that is not HELD (R6, section "The planner"). -/
def mayBeFed (s : State) (l : Lot) : Bool :=
  match l.state with
  | .active => true
  | .pending => s.lots.active.all fun a => a.state != .held
  | .held | .aborting | .closing => false

/-- Whether a wafer's lot may be fed. -/
def lotMayBeFed (s : State) (i : Nat) : Bool := (lotOfWafer s i).any (mayBeFed s)

end Sys2Proof.Machine
end

