-- ==== Sys2Proof/Machine/Planner.lean ====
section
/-! DEFINITION. The planner: the choice of the next handler order and its issue (R22, R35 to R39). -/

namespace Sys2Proof.Machine

/-- An order as the planner chooses it, before it has a tag and a timer. -/
structure Plan where
  kind  : OrderKind
  wafer : Nat
  src   : Location
  dst   : Location
  arm   : Option Arm
  deriving DecidableEq, Repr

def Arm.location : Arm → Location
  | .u => .armU | .l => .armL

/-- State of a carrier port. -/
def portState (s : State) : Port → PortState
  | .one => s.handling.port1 | .two => s.handling.port2

def setPort (p : Port) (v : PortState) (s : State) : State :=
  match p with
  | .one => { s with handling := { s.handling with port1 := v } }
  | .two => { s with handling := { s.handling with port2 := v } }

/-- A port is open in its debounced state (R41). -/
def portOpen (s : State) (p : Port) : Bool := (portState s p).debounced.opened

/-- No wafer record is at a place (R21). -/
def isEmptyPlace (s : State) (l : Location) : Bool := (waferIn s l).isNone

/-- An arm holds no wafer. -/
def armFree (s : State) (a : Arm) : Bool := isEmptyPlace s a.location

def bothArmsFree (s : State) : Bool := armFree s .u && armFree s .l

/-- The wafer at a place, where it is in a given phase. -/
def waferInPhase (s : State) (l : Location) (p : Phase) : Option Nat :=
  (waferIn s l).filter fun i => (waferAt s i).any fun w => w.phase == p

/-- The arm for a wafer going home: ARM_U if it is free, ARM_L otherwise; none if neither is (R38). -/
def homeArm (s : State) : Option Arm :=
  if armFree s .u then some .u else if armFree s .l then some .l else none

/-- The arm for a wafer that clears the load lock under rule 10: ARM_L if free, ARM_U otherwise (R38). -/
def clearArm (s : State) : Option Arm :=
  if armFree s .l then some .l else if armFree s .u then some .u else none

/-- A return that waits on an arm, with its home port in a given state. -/
def returnOn (s : State) (a : Arm) (opened : Bool) : Option Nat :=
  (waferInPhase s a.location .reviewDone).filter fun i => portOpen s (homePort i) == opened

def placeFrom (a : Arm) (dst : Location) (i : Nat) : Plan := ⟨.place, i, a.location, dst, some a⟩
def pickTo (a : Arm) (src : Location) (i : Nat) : Plan := ⟨.pick, i, src, a.location, some a⟩

/-- Rule 1: a return on an arm whose home port is open; ARM_U first. -/
def rule1 (s : State) : Option Plan :=
  ((returnOn s .u true).map (placeFrom .u .slot)).or ((returnOn s .l true).map (placeFrom .l .slot))

/-- Rule 2: a REVIEW_DONE wafer leaves the stage for an empty load lock. -/
def rule2 (s : State) : Option Plan :=
  if isEmptyPlace s .ll then
    (waferInPhase s .stage .reviewDone).map fun i => ⟨.transfer, i, .stage, .ll, none⟩
  else none

/-- Rule 3: the only way onto the stage. -/
def rule3 (s : State) : Option Plan :=
  if isEmptyPlace s .stage && s.guard.state != .hardTripped then
    ((waferInPhase s .ll .prealigned).filter (lotMayBeFed s)).map fun i => ⟨.transfer, i, .ll, .stage, none⟩
  else none

/-- Rule 4: a REVIEW_DONE wafer leaves the load lock. -/
def rule4 (s : State) : Option Plan :=
  match waferInPhase s .ll .reviewDone, homeArm s with
  | some i, some a => some (pickTo a .ll i)
  | _, _ => none

/-- Rule 5: a REVIEW_DONE wafer leaves the prealigner. -/
def rule5 (s : State) : Option Plan :=
  match waferInPhase s .pa .reviewDone, homeArm s with
  | some i, some a => some (pickTo a .pa i)
  | _, _ => none

/-- Rule 6: a prealigned wafer goes into the load lock. -/
def rule6 (s : State) : Option Plan :=
  if isEmptyPlace s .ll && isEmptyPlace s .stage then
    (((waferInPhase s .armU .prealigned).filter (lotMayBeFed s)).map (placeFrom .u .ll)).or
      (((waferInPhase s .armL .prealigned).filter (lotMayBeFed s)).map (placeFrom .l .ll))
  else none

/-- Rule 7: a prealigned wafer leaves the prealigner. -/
def rule7 (s : State) : Option Plan :=
  if bothArmsFree s && (isEmptyPlace s .ll || (waferInPhase s .ll .reviewDone).isSome) then
    ((waferInPhase s .pa .prealigned).filter (lotMayBeFed s)).map (pickTo .l .pa)
  else none

/-- Rule 8: a wafer on an arm goes into the prealigner. -/
def rule8 (s : State) : Option Plan :=
  if isEmptyPlace s .pa then
    ((waferInPhase s .armU .toPA).map (placeFrom .u .pa)).or ((waferInPhase s .armL .toPA).map (placeFrom .l .pa))
  else none

/-- Whether a wafer is between slot and stage (R37). -/
def isBetween (w : Wafer) : Bool :=
  w.phase == .toPA || w.phase == .prealigning || (w.phase == .prealigned && w.location != .stage)

/-- How many wafer records are between slot and stage (R37). -/
def betweenCount (s : State) : Nat := waferIndices.countP fun i => (waferAt s i).any isBetween

/-- The WAITING wafer of a lot with the lowest slot number (R37). -/
def nextWaiting (s : State) (l : Lot) : Option Nat :=
  waferIndices.find? fun i => (waferAt s i).any fun w => w.run == l.run && w.phase == .waiting

/-- The lot rule 9 feeds: the active one if it may be fed and has a WAITING wafer, else the pending (R37). -/
def feedWafer (s : State) : Option Nat :=
  (lotList s).findSome? fun l => if mayBeFed s l then nextWaiting s l else none

/-- Rule 9: feeding from the carriers (R37). -/
def rule9 (s : State) : Option Plan :=
  if isEmptyPlace s .pa && bothArmsFree s && decide (betweenCount s < 2) then
    ((feedWafer s).filter fun i => portOpen s (homePort i)).map (pickTo .l .slot)
  else none

/-- Rule 10: a prealigned wafer clears the load lock for a wafer that leaves the stage. -/
def rule10 (s : State) : Option Plan :=
  match waferInPhase s .stage .reviewDone, waferInPhase s .ll .prealigned, clearArm s with
  | some _, some i, some a => some (pickTo a .ll i)
  | _, _, _ => none

/-- The first order of the list whose conditions hold (R36). -/
def choosePlan (s : State) : Option Plan :=
  (rule1 s).or <| (rule2 s).or <| (rule3 s).or <| (rule4 s).or <| (rule5 s).or <| (rule6 s).or <|
    (rule7 s).or <| (rule8 s).or <| (rule9 s).or (rule10 s)

/-- The length of an order's timer, in ms (R22). -/
def orderTimeout (s : State) (k : OrderKind) : Nat :=
  match k with
  | .pick | .place => paramNat s 0
  | .transfer => paramNat s 1

/-- An order is sent with the next tag, and its timer starts (R22). -/
def sendOrder (p : Plan) (retry : Bool) (s : State) : State :=
  let tag := s.handling.tag + 1
  send (.order tag p.kind p.wafer p.src p.dst p.arm)
    { s with handling := { s.handling with
        tag := tag, state := .busy
        order := some ⟨tag, p.kind, p.wafer, p.src, p.dst, p.arm, retry, orderTimeout s p.kind⟩ } }

/-- A wafer picked from its slot becomes TO_PA in the step of the issue (R15, R37). -/
def feedPhase (p : Plan) (s : State) : State :=
  if p.src = .slot then
    updWafer p.wafer (fun w => if w.phase = .waiting then { w with phase := .toPA } else w) s
  else s

/-- The planner issues an order. -/
def issue (p : Plan) (s : State) : State := feedPhase p (sendOrder p false s)

/-- Whether the planner runs: handling is IDLE or PORT_WAIT, and the part is not RESETTING (R35). -/
def mayPlan (s : State) : Bool :=
  (s.handling.state == .idle || s.handling.state == .portWait) && !s.cmd.resetting

/-- A return waits on some arm for its closed home port (R39). -/
def returnHeldBack (s : State) : Bool := (returnOn s .u false).isSome || (returnOn s .l false).isSome

/-- A planner run: one order at most; with none, IDLE or PORT_WAIT (R36, R39). -/
def runPlanner (s : State) : State :=
  if mayPlan s then
    match choosePlan s with
    | some p => issue p s
    | none =>
      { s with handling := { s.handling with state := if returnHeldBack s then .portWait else .idle } }
  else s

/-- The end of a step: the planner run that its events asked for (R35, log 9). -/
def finish (s : State) : State :=
  if s.handling.runDue then runPlanner { s with handling := { s.handling with runDue := false } } else s

end Sys2Proof.Machine
end

