-- ==== Sys2Proof/Machine/Phases.lean ====
section
/-! DEFINITION. Phase changes that end a wafer's review, with what follows each: skipped entries, the wafer
report, the excursion watches, the way home (R15 to R17, R83, R149, R162, R163). -/

namespace Sys2Proof.Machine

/-- An entry takes a terminal state with no parts and is handed over (R77, R82). -/
def retireEntry (st : EntryState) (e : Entry) (s : State) : State :=
  handOverAt e.index (updEntry e.index (fun x => { x with state := st }) s)

/-- Every queued entry of a wafer becomes SKIPPED, in review order, and is handed over (R83). -/
def skipQueued (i : Nat) (s : State) : State :=
  (queuedList s i).foldl (fun s e => retireEntry .skipped e s) s

/-- What a watch that fires does: EXCURSION is posted, and with action HOLD the lot unit is asked to hold
the lot (R163). `n` is the watch number. -/
def fireWatch (run i n count : Nat) (w : Watch) (s : State) : State :=
  let s1 := postEvent .excursion (some i) (word n) (word count) s
  if w.hold then holdByWatch run n s1 else s1

/-- The watches of a lot that fire on a report, in order of their numbers from `n` (R163). R163 gives no order between
two watches that fire on one report; the model takes rising watch number, so that LOT_HELD carries the lowest one with
action HOLD. DESIGN CHOICE (log 37). -/
def fireWatches (run i : Nat) (o : Option WaferOutcome) (counts : List Nat) :
    Nat → List Watch → List Nat → State → State
  | n, w :: ws, r :: rs, s =>
    fireWatches run i o counts (n + 1) ws rs
      (if watchFires o counts w r then fireWatch run i n (counts.getD w.cls 0) w s else s)
  | _, _, _, s => s

/-- Whether some watch fires with action HOLD. -/
def holdFires (o : Option WaferOutcome) (counts : List Nat) (ws : List Watch) (rs : List Nat) : Bool :=
  (List.zip ws rs).any fun p => p.1.hold && watchFires o counts p.1 p.2

/-- R40: the planner run and the hold that one report causes are taken in either order. Where the two
orders can differ (the hold changes the lot, and the planner may run), a free choice says whether a run is
made before the hold; the run that the step is due is made at its end in any case (log 9). -/
def planBeforeHold (s : State) : State :=
  let s1 := { s with choices := s.choices + 1 }
  if Config.planFirst s.choices then runPlanner s1 else s1

/-- The counting of a wafer report by its lot: totals, saturated flag, runs and flags (R152, R162). -/
def countForLot (run : Nat) (o : Option WaferOutcome) (counts : List Nat) (ws : List Watch) (s : State) : State :=
  updLot run (fun l => { l with acc := l.acc.map (countReport o counts ws) }) s

/-- The runs of a lot's watches. -/
def runsOf (s : State) (run : Nat) : List Nat := (((lotOfRun s run).bind (·.acc)).map (·.runs)).getD []

/-- The wafer report is built: the lot counts it, it joins the report queue, and the watches that it brings
to K fire (R149, R162, R163). -/
def reportWafer (i : Nat) (w : Wafer) (a : WaferAcc) (l : Lot) (s : State) : State :=
  let ws := ((l.settings.map (·.watches)).getD [])
  let before := runsOf s w.run
  let s0 :=
    if holdFires w.outcome a.classCounts ws before && mayBeHeld l && mayPlan s then planBeforeHold s else s
  let s1 := countForLot w.run w.outcome a.classCounts ws s0
  let s2 := joinReport ⟨.wafer i, waferReportWords s1 i w a (runsOf s1 w.run)⟩ s1
  fireWatches w.run i w.outcome a.classCounts 1 ws before s2

/-- The wafer report of a wafer whose accumulator link is present (R149); none while RESETTING (R165). -/
def buildWaferReport (i : Nat) (s : State) : State :=
  match waferAt s i, lotOfWafer s i with
  | some w, some l =>
    match w.acc with
    | some a => if s.cmd.resetting then s else reportWafer i w a l s
    | none => s
  | _, _ => s

/-- Whether a handler order in flight moves a wafer. -/
def orderMoves (s : State) (i : Nat) : Bool := s.handling.order.any fun o => o.wafer == i

/-- R17: a REVIEW_DONE wafer in its home slot, with no order of it in flight, becomes RETURNED, and
WAFER_RETURNED is posted. -/
def settleHome (i : Nat) (s : State) : State :=
  match waferAt s i with
  | none => s
  | some w =>
    if w.phase = .reviewDone && w.location = .slot && !orderMoves s i then
      closingTestOf i (postEvent .waferReturned (some i) (word i) 0
        (updWafer i (fun w => { w with phase := .returned }) s))
    else s

/-- The prealignment in progress is cleared for a wafer that leaves PREALIGNING (R32). -/
def dropPrealign (i : Nat) (s : State) : State :=
  { s with handling := { s.handling with prealign := s.handling.prealign.filter fun p => p.1 != i } }

/-- The attempt of a wafer is dropped: no marks, no verdict (R60). -/
def dropAttempt (i : Nat) (s : State) : State :=
  updWafer i (fun w => { w with align := { w.align with
    state := .none, primary := none, secondary := none, checks := [] } }) s

/-- ALIGN leaves the hold set if it was set for this wafer (R60). -/
def releaseAlign (i : Nat) (s : State) : State :=
  { s with visit := { s.visit with hold := { s.visit.hold with
      align := s.visit.hold.align.filter fun j => j != i } } }

/-- A phase and, where it is absent, an outcome (R15, R16). -/
def endPhase (p : Phase) (o : WaferOutcome) (w : Wafer) : Wafer :=
  { w with phase := p, outcome := some (w.outcome.getD o) }

/-- What follows the end of a wafer's review: its queued entries are skipped and its report is built, and
the planner runs (R15, R83, R149). -/
def afterReview (i : Nat) (s : State) : State := wantPlan (buildWaferReport i (skipQueued i s))

/-- A wafer enters REVIEW_DONE (R15, with R32, R60, R12, R83, R149 and R17). -/
def enterReviewDone (i : Nat) (o : WaferOutcome) (s : State) : State :=
  settleHome i <| afterReview i <| closingTestOf i <| releaseAlign i <| dropAttempt i <| dropPrealign i <|
    updWafer i (endPhase .reviewDone o) s

/-- A WAITING wafer is cut in its carrier: RETURNED with outcome CUT, no WAFER_RETURNED (R10, R17, R149). -/
def cutInSlot (i : Nat) (s : State) : State :=
  afterReview i (closingTestOf i (updWafer i (endPhase .returned .cut) s))

/-- A wafer changes location; leaving the stage is reported to the focus unit (R24, R129). -/
def moveWafer (i : Nat) (l : Location) (s : State) : State :=
  match waferAt s i with
  | none => s
  | some w =>
    let s1 := updWafer i (fun w => { w with location := l }) s
    if w.location = .stage ∧ l ≠ .stage then stageDeparture w.run s1 else s1

end Sys2Proof.Machine
end

