-- ==== Sys2Proof/Machine/Alignment.lean ====
section
/-! DEFINITION. The alignment unit: the transform and its tests, verdicts, stage targets, drift and
realignment (R48 to R67). All arithmetic is exact. -/

namespace Sys2Proof.Machine

/-! ## The transform (R53 to R57) -/

/-- 1.0 in Q2.30. -/
def q30 : Int := 2 ^ 30

/-- The vector from `p` to `q`. -/
def vec (p q : Point) : Point := ⟨q.x - p.x, q.y - p.y⟩

/-- Squared length. -/
def norm2 (d : Point) : Nat := (d.x * d.x + d.y * d.y).toNat

/-- The smallest squared mark separation that passes: 50,000,000 nm squared (R53). -/
def separationLimit : Nat := 50000000 ^ 2

/-- The coefficients of a design vector and a measured vector (R54). -/
def coeffA (d m : Point) : Int := roundDiv (q30 * (d.x * m.x + d.y * m.y)) (norm2 d)
def coeffB (d m : Point) : Int := roundDiv (q30 * (d.x * m.y - d.y * m.x)) (norm2 d)

/-- The range test of the coefficients (R55). -/
def coeffsInRange (a b : Int) : Bool := decide ((a - q30).natAbs ≤ 1073742) && decide (b.natAbs ≤ 10737418)

/-- The transform that two marks give, before its range test (R54). -/
def transformOf (p q : Mark) : Transform where
  pd := p.design
  pm := p.measured
  a := coeffA (vec p.design q.design) (vec p.measured q.measured)
  b := coeffB (vec p.design q.design) (vec p.measured q.measured)

/-- T(w), exact (R56). -/
def Transform.apply (t : Transform) (w : Point) : Point :=
  let u := vec t.pd w
  ⟨t.pm.x + roundDiv (t.a * u.x - t.b * u.y) (2 ^ 30), t.pm.y + roundDiv (t.b * u.x + t.a * u.y) (2 ^ 30)⟩

/-- A check mark's residual passes when neither component exceeds the tolerance (R57). -/
def checkPasses (t : Transform) (tolerance : Int) (c : Mark) : Bool :=
  let r := vec (t.apply c.design) c.measured
  decide ((r.x.natAbs : Int) ≤ tolerance) && decide ((r.y.natAbs : Int) ≤ tolerance)

/-- The verdict of a closed attempt from the marks held, with its transform (R52). -/
def judge (al : Align) (tolerance : Int) : Verdict × Option Transform :=
  match al.primary, al.secondary with
  | some p, some q =>
    let t := transformOf p q
    if norm2 (vec p.design q.design) < separationLimit then (.marksTooClose, none)
    else if !coeffsInRange t.a t.b then (.coeffRange, none)
    else if !al.checks.all (checkPasses t tolerance) then (.checkFailed, none)
    else (.accepted, some t)
  | _, _ => (.incomplete, none)

/-! ## Verdicts (R58, R59) -/

/-- Number of a refusal code in ALIGN_REFUSED (R200). -/
def refusalNumber : Verdict → Nat
  | .accepted => 0 | .incomplete => 1 | .marksTooClose => 2 | .coeffRange => 3 | .checkFailed => 4

/-- The alignment state with no marks held. -/
def emptied (st : AttemptState) (al : Align) : Align :=
  { al with state := st, primary := none, secondary := none, checks := [] }

/-- A transform goes in force (R58); a first alignment makes the wafer REVIEWING (R15). -/
def acceptTransform (i : Nat) (w : Wafer) (t : Transform) (s : State) : State :=
  let s1 := updWafer i (fun w => { w with
    transform := some t, drift := .zero
    align := { emptied .none w.align with lastVerdict := some .accepted }
    phase := if w.align.kind = .first ∧ w.phase = .aligning then .reviewing else w.phase }) s
  let s2 := postEvent .alignAccepted (some i) (wordOfInt t.a) (wordOfInt t.b) s1
  if w.align.kind = .realign then releaseAlign i s2 else s2

/-- A refused attempt (R59): a new attempt begins, or after the third the review ends with ALIGN_FAILED. -/
def refuseAttempt (i : Nat) (w : Wafer) (v : Verdict) (s : State) : State :=
  let used := min 3 (w.align.used + 1)
  let s1 := updWafer i (fun w => { w with
    align := { emptied (if used < 3 then .collecting else .none) w.align with
      lastVerdict := some v, used := used } }) s
  let s2 := postEvent .alignRefused (some i) (word (refusalNumber v)) (word used) s1
  if used < 3 then s2
  else
    let s3 := if w.align.kind = .realign then releaseAlign i s2 else s2
    if w.phase = .aligning ∨ w.phase = .reviewing then enterReviewDone i .alignFailed s3 else s3

/-- The verdict of a closed attempt is made and takes effect (R52, R58, R59). -/
def giveVerdict (i : Nat) (s : State) : State :=
  match waferAt s i with
  | none => s
  | some w =>
    match judge w.align (param s 3) with
    | (_, some t) => acceptTransform i w t s
    | (v, none) => refuseAttempt i w v s

/-- The verdict that waited for the end of a visit (R51; R103, step 5). -/
def verdictIfWaiting (i : Nat) (s : State) : State :=
  match waferAt s i with
  | none => s
  | some w => if w.align.state = .closeWaiting then giveVerdict i s else s

/-- Whether a visit of a wafer is in flight. -/
def visitOf (s : State) (i : Nat) : Bool := s.visit.current.any fun v => v.wafer == i

/-- A last flag closes the attempt: the verdict is made at once, or waits for the visit in flight (R51). -/
def closeAttempt (i : Nat) (s : State) : State :=
  if visitOf s i then updWafer i (fun w => { w with align := { w.align with state := .closeWaiting } }) s
  else giveVerdict i s

/-! ## From entry to stage target (R61, R62) -/

/-- The wafer point of an entry (R61). -/
def waferPoint (l : Layout) (e : Entry) : Point :=
  ⟨l.origin.x + e.col * l.pitch.x + e.inDie.x, l.origin.y + e.row * l.pitch.y + e.inDie.y⟩

/-- The stage target of an entry, with the transform and the drift in force (R62). A REVIEWING wafer always
has a transform and a lot with settings; without them there is no target (log 21). -/
def targetOf (s : State) (e : Entry) : Option Point :=
  match waferAt s e.wafer, settingsOf s e.wafer with
  | some w, some st =>
    w.transform.map fun t =>
      let p := t.apply (waferPoint st.layout e)
      ⟨p.x + w.drift.x, p.y + w.drift.y⟩
  | _, _ => none

/-- The travel test of a target: a component at the limit passes (R62). -/
def inTravel (s : State) (t : Point) : Bool :=
  decide ((t.x.natAbs : Int) ≤ param s 6) && decide ((t.y.natAbs : Int) ≤ param s 6)

/-! ## Drift and realignment (R63 to R66) -/

/-- One component of a drift update with gain `k`, clamped to ±5,000 nm (R64). -/
def driftStep (k drift offset : Int) : Int := clamp (-5000) 5000 (drift + roundDiv ((offset - drift) * k) 16)

/-- A realignment starts (R65, R66); `cause` is 1 for drift and 2 for the command. -/
def startRealign (i cause : Nat) (s : State) : State :=
  match waferAt s i with
  | none => s
  | some w =>
    let s1 := updWafer i (fun w => { w with
      align := { emptied .collecting w.align with kind := .realign, used := 0 } }) s
    postEvent .realignNeeded (some i) (word cause) (packPair w.drift.x w.drift.y)
      { s1 with visit := { s1.visit with hold := { s1.visit.hold with align := some i } } }

/-- The realign test after a drift update (R65). -/
def realignTest (i : Nat) (s : State) : State :=
  match waferAt s i with
  | none => s
  | some w =>
    if (param s 5 ≤ w.drift.x.natAbs || param s 5 ≤ w.drift.y.natAbs) && w.align.state == .none
        && !w.aborting && w.phase == .reviewing then startRealign i 1 s
    else s

/-- An offset component that moves the drift (R63). -/
def inOffsetWindow (z : Int) : Bool := decide (z.natAbs ≤ 20000)

/-- The drift update of a visit that ended DONE (R63, R64), and the realign test (R65). -/
def driftUpdate (i : Nat) (r : ResultPart) (s : State) : State :=
  if r.found && inOffsetWindow r.offset.x && inOffsetWindow r.offset.y then
    realignTest i (updWafer i (fun w => { w with
      drift := ⟨driftStep (param s 4) w.drift.x r.offset.x, driftStep (param s 4) w.drift.y r.offset.y⟩ }) s)
  else s

/-- A first alignment starts when the wafer arrives PREALIGNED on the stage (R24, R49). -/
def startAlign (i : Nat) (s : State) : State :=
  match waferAt s i with
  | none => s
  | some w =>
    let p := w.prealign.getD ⟨0, 0, 0⟩
    postEvent .alignRequest (some i) p.notch (packPair p.offsetX.toInt p.offsetY.toInt)
      (updWafer i (fun w => { w with
        phase := .aligning
        align := { emptied .collecting w.align with kind := .first, used := 0 } }) s)

end Sys2Proof.Machine
end

