-- ==== Sys2Proof/Machine/Visits.lean ====
section
/-! DEFINITION. The visit unit: the take, the visit sequence, its ends with their hand-offs, and the aborts
of wafers that a visit may hold up (R18, R80 to R112). -/

namespace Sys2Proof.Machine

/-! ## The take and the beginning of a visit (R80, R81, R93) -/

/-- An entry that enters MOVING: its dispatched mark is set, and its class use counted once (R81). -/
def enterMoving (e : Entry) (s : State) : State :=
  let s1 := updEntry e.index (fun x => { x with state := .moving, dispatched := true }) s
  if e.dispatched then s1
  else updWafer e.wafer (fun w => { w with classUse := bump w.classUse e.roughClass Config.waferEntries }) s1

/-- A MOVE is sent with the next tag (R94). -/
def sendMove (t : Point) (s : State) : State :=
  let tag := s.visit.tag + 1
  send (.move tag t.x t.y) { s with visit := { s.visit with tag := tag, move := some (tag, t) } }

/-- The steps of R93: entry MOVING, prediction and ACQUIRING, MOVE, move timer, fields of the visit. -/
def beginVisit (e : Entry) (t : Point) (s : State) : State :=
  let p := predict s e.wafer t
  let offset := ((settingsOf s e.wafer).map (·.layout.focusOffset)).getD 0
  let s1 := sendMove t (focusBegin e p.1 offset (enterMoving e s))
  let v : Visit :=
    { entry := e.index, wafer := e.wafer, defectId := e.defectId, state := .moving, target := t,
      moveTag := s1.visit.tag, zPred := p.1, source := p.2, arrival := none, captured := none,
      lockedAtStrobe := false, predictedFocus := false, timer := paramNat s1 7 }
  { s1 with visit := { s1.visit with current := some v } }

/-- The quota of an entry's rough class (R81). -/
def quotaOf (s : State) (e : Entry) : Nat :=
  ((settingsOf s e.wafer).map fun st => st.quotas.getD e.roughClass 0).getD 0

/-- The wafer's use of an entry's rough class. -/
def classUseOf (s : State) (e : Entry) : Nat :=
  ((waferAt s e.wafer).map fun w => w.classUse.getD e.roughClass 0).getD 0

/-- A head entry whose class quota is used up is sampled out (R80, R81). -/
def isSampledOut (s : State) (e : Entry) : Bool := !e.dispatched && decide (quotaOf s e ≤ classUseOf s e)

/-- A take that answers none: a wafer whose review end is set and that is not aborting completes (R85). -/
def takeNone (i : Nat) (s : State) : State :=
  match waferAt s i with
  | none => s
  | some w => if w.reviewEnd && !w.aborting then enterReviewDone i .complete s else s

/-- A take down the queued list: entries are sampled out or out of range until one is handed over, or none
is left (R80). -/
def takeFrom (i : Nat) : List Entry → State → State
  | [], s => takeNone i s
  | e :: es, s =>
    if isSampledOut s e then takeFrom i es (retireEntry .sampledOut e s)
    else
      match targetOf s e with
      | none => s
      | some t =>
        if inTravel s t then beginVisit e t s else takeFrom i es (retireEntry .outOfRange e s)

/-- The wafer for which the dispatcher makes a take, if its conditions hold (R92). -/
def dispatchWafer (s : State) : Option Nat :=
  if s.visit.current.isNone && s.visit.hold.isEmpty && !s.cmd.resetting then
    (stageWafer s).filter fun i => (waferAt s i).any fun w => w.phase == .reviewing && !w.aborting
  else none

/-- The dispatcher tests its conditions, and makes a take if they hold (R92). -/
def dispatch (s : State) : State :=
  match dispatchWafer s with
  | none => s
  | some i => takeFrom i (queuedList s i) s

/-! ## States of a visit -/

/-- The entry state of a visit state (R90: they are the same). -/
def VisitState.entryState : VisitState → EntryState
  | .moving => .moving | .settling => .settling | .ready => .ready | .grabbed => .grabbed

/-- The visit in flight and its entry take a state. -/
def setVisit (v : Visit) (s : State) : State :=
  updEntry v.entry (fun e => { e with state := v.state.entryState })
    { s with visit := { s.visit with current := some v } }

/-- HALT is sent while a stage move is in flight, and ends it (R95). -/
def haltMove (s : State) : State :=
  match s.visit.move with
  | none => s
  | some _ => send .halt { s with visit := { s.visit with move := none } }

/-- The visit enters READY: the result timer starts and READY_TO_GRAB is posted (R99). -/
def enterReady (v : Visit) (predicted : Bool) (s : State) : State :=
  postEvent .readyToGrab (some v.wafer) (word v.entry) v.defectId
    (setVisit { v with state := .ready, predictedFocus := predicted, timer := paramNat s 9 } s)

/-- The focus test of R97: LOCKED with the unsettled flag clear. -/
def focusSettled (s : State) : Bool := s.focus.state == .locked && !s.focus.unsettled

/-- The focus test of a visit in SETTLING (R97). -/
def settleTest (s : State) : State :=
  match s.visit.current with
  | none => s
  | some v => if v.state = .settling ∧ focusSettled s then enterReady v false s else s

/-! ## The end of a visit (R103) -/

/-- A wafer marked as aborting completes its abort once no visit of it is in flight (R18, R111). -/
def completeAbort (i : Nat) (s : State) : State :=
  match waferAt s i with
  | none => s
  | some w =>
    if w.aborting && (w.phase == .aligning || w.phase == .reviewing) && !visitOf s i then
      enterReviewDone i .aborted s
    else s

/-- Step 3 of R103: a map point at the captured position, for an accepted RESULT with the lock at strobe. -/
def mapPointStep (v : Visit) (strobe : Option Int) (r : Option ResultPart) (s : State) : State :=
  match r, v.captured, strobe with
  | some _, some pos, some z => if v.lockedAtStrobe then takePoint pos z s else s
  | _, _, _ => s

/-- Step 4 of R103: an entry that became terminal is handed over; a requeued one is not. -/
def handOverStep (i : Nat) (s : State) : State :=
  match entryAt s i with
  | none => s
  | some e => if e.state.isTerminal then handOver e s else s

/-- Step 2 of R103: the drift update of an accepted RESULT. -/
def driftStepOf (i : Nat) (r : Option ResultPart) (s : State) : State :=
  match r with
  | none => s
  | some r => driftUpdate i r s

/-- The hand-offs of R103, in their order, once the entry of the visit has its new state. `r` is the result
part of an accepted RESULT. -/
def endVisit (v : Visit) (r : Option ResultPart) (s : State) : State :=
  dispatch <| completeAbort v.wafer <| verdictIfWaiting v.wafer <| handOverStep v.entry <|
    mapPointStep v s.focus.strobeHeight r <| driftStepOf v.wafer r <|
    focusEnd { s with visit := { s.visit with current := none } }

/-- The entry of a visit becomes terminal, with its visit part and, from a RESULT, its result part (R76). -/
def closeEntry (v : Visit) (st : EntryState) (noStrobe : Bool) (r : Option ResultPart) (s : State) : State :=
  updEntry v.entry (fun e => { e with
    state := st, result := r, visitPart := some ⟨noStrobe, v.predictedFocus⟩ }) s

/-- A visit ends with its entry terminal and without a result. -/
def failVisit (v : Visit) (st : EntryState) (s : State) : State :=
  endVisit v none (closeEntry v st false none s)

/-- Retries of the visit's entry. -/
def retriesOf (s : State) (v : Visit) : Nat := ((entryAt s v.entry).map (·.retries)).getD 0

/-- A visit ends with its entry QUEUED again (R108). -/
def requeue (v : Visit) (s : State) : State :=
  endVisit v none (updEntry v.entry (fun e => { e with
    state := .queued, retries := e.retries + 1, result := none, visitPart := none }) s)

/-- VISIT_TIMED_OUT; cause 1 is the result timer, 2 the stage (R104, R106). -/
def timedOutEvent (v : Visit) (cause : Nat) (s : State) : State :=
  postEvent .visitTimedOut (some v.wafer) (word v.entry) (word cause) s

/-- A visit spoiled by the stage: requeued, or TIMED_OUT at retries 2 (R106, R108). -/
def spoilVisit (v : Visit) (s : State) : State :=
  if retriesOf s v < 2 then requeue v s else failVisit v .timedOut (timedOutEvent v 2 s)

/-- A visit ended by a HARD trip: requeued, or FOCUS_FAILED at retries 2 (R112). -/
def tripVisit (v : Visit) (s : State) : State :=
  if retriesOf s v < 2 then requeue v (haltMove s) else failVisit v .focusFailed (haltMove s)

/-! ## Aborting a wafer (R18, R60, R111) -/

/-- The visit in flight of an aborting wafer ends at once, but for GRABBED (R111). -/
def abortVisit (i : Nat) (s : State) : State :=
  match s.visit.current with
  | none => s
  | some v =>
    if v.wafer = i ∧ v.state ≠ .grabbed then failVisit v .skipped (haltMove s) else s

/-- An ALIGNING or REVIEWING wafer is marked as aborting; a wafer already marked is left (R18, R60, R111). -/
def abortWafer (i : Nat) (s : State) : State :=
  match waferAt s i with
  | none => s
  | some w =>
    if w.aborting then s
    else completeAbort i (abortVisit i (dropAttempt i (updWafer i (fun w => { w with aborting := true }) s)))

/-- How LOT_ABORT and a carrier removal treat a wafer, by its phase (R10, R44). -/
def cutWafer (i : Nat) (s : State) : State :=
  match waferAt s i with
  | none => s
  | some w =>
    match w.phase with
    | .waiting => cutInSlot i s
    | .toPA | .prealigning | .prealigned => enterReviewDone i .cut s
    | .aligning | .reviewing => abortWafer i s
    | .reviewDone | .returned | .skipped => s

/-- A lot becomes ABORTING and its wafers are treated by phase, in order of their indices (R10, log 11). -/
def abortLot (run : Nat) (s : State) : State :=
  (wafersOfLot s run).foldl (fun s i => cutWafer i s) (setLotState run .aborting s)

end Sys2Proof.Machine
end

