-- ==== Sys2Proof/Machine/Handling.lean ====
section
/-! DEFINITION. The handling unit: the end of handler orders, lost orders, recovery, prealigning and carrier
ports (R21 to R34, R41 to R45). -/

namespace Sys2Proof.Machine

/-! ## The end of an order (R23 to R28, R45) -/

/-- Reasons of HANDLER_HALT (R200). -/
def haltFault : Nat := 1
def haltTimeout : Nat := 2
def haltRetryFailed : Nat := 3
def haltCarrierRemoved : Nat := 4

/-- Handling takes a state. -/
def setHandling (h : HandlingState) (s : State) : State :=
  { s with handling := { s.handling with state := h } }

/-- Handling becomes HALTED and HANDLER_HALT is posted. -/
def haltHandling (wafer : Option Nat) (reason : Nat) (b : Word) (s : State) : State :=
  postEvent .handlerHalt wafer (word reason) b (setHandling .halted s)

/-- Handling becomes IDLE, and the planner runs (R23, R35). -/
def idleHandling (s : State) : State := wantPlan (setHandling .idle s)

/-- The fields of the order in flight are cleared. -/
def clearOrder (s : State) : State := { s with handling := { s.handling with order := none } }

/-- The places whose wafers a carrier removal makes UNKNOWN (R44). -/
def Location.isHandlers : Location → Bool
  | .armU | .armL | .pa | .ll => true
  | .slot | .stage | .unknown => false

/-- The order's wafer becomes UNKNOWN where it belongs to a lot whose removal waited (R45). -/
def removeLate (i : Nat) (s : State) : State :=
  match waferAt s i with
  | none => s
  | some w =>
    if (s.handling.removals.any fun r => r.1 == w.run) && w.location.isHandlers then moveWafer i .unknown s
    else s

/-- What follows the end of an order, its own effects made. With `reason` the order lost its wafer.
Without a removal waiting, handling halts or goes IDLE (R23, R25 to R27); with one, R45 decides, and does so while
RESETTING too, for R47 sends the end to R23 to R27; a first NOT_PICKED or NOT_PLACED does not come here then (log 40). -/
def resolveEnd (o : Order) (reason : Option Nat) (s : State) : State :=
  match s.handling.removals with
  | [] =>
    match reason with
    | some r => haltHandling (some o.wafer) r (word o.tag.toNat) s
    | none => idleHandling s
  | (_, p) :: _ =>
    let s1 := removeLate o.wafer s
    let s2 := { s1 with handling := { s1.handling with removals := [] } }
    if anyUnknown s2 then
      match reason with
      | some r => haltHandling (some o.wafer) r (word o.tag.toNat) s2
      | none => haltHandling (waferIn s2 .unknown) haltCarrierRemoved (word (portNumber p)) s2
    else idleHandling s2

/-- A wafer arrives on the stage (R24): WAFER_ON_STAGE, and for a PREALIGNED wafer the first alignment. -/
def arriveOnStage (i : Nat) (s : State) : State :=
  match waferAt s i with
  | none => s
  | some w =>
    let s1 := postEvent .waferOnStage (some i) w.lotNumber 0 s
    if w.phase = .prealigned then startAlign i s1 else s1

/-- A wafer set down in PA while TO_PA starts prealigning (R32). -/
def startPrealign (i : Nat) (s : State) : State :=
  match waferAt s i with
  | none => s
  | some w =>
    if w.phase = .toPA then
      let s1 := updWafer i (fun w => { w with phase := .prealigning }) s
      { s1 with handling := { s1.handling with prealign := some (i, paramNat s 2) } }
    else s

/-- The further effect of an order completed OK (R23). -/
def afterArrival (o : Order) (s : State) : State :=
  match o.dst with
  | .pa => startPrealign o.wafer s
  | .stage => arriveOnStage o.wafer s
  | .slot => settleHome o.wafer s
  | .armU | .armL | .ll | .unknown => s

/-- An order completed OK: the wafer is at its destination (R23). -/
def completeOrder (o : Order) (s : State) : State :=
  afterArrival o (moveWafer o.wafer o.dst (clearOrder s))

/-- An order that lost its wafer (R25 to R27). -/
def loseWafer (o : Order) (s : State) : State := moveWafer o.wafer .unknown (clearOrder s)

/-- Whether a wafer was cut while its pick from the home slot was in flight (R25). -/
def cutBeforePick (s : State) (o : Order) : Bool :=
  o.kind == .pick && o.src == .slot && (waferAt s o.wafer).any fun w => w.phase == .reviewDone

/-- Whether a first NOT_PICKED or NOT_PLACED is retried outside RESETTING (R25). -/
def isRetried (s : State) (o : Order) : Bool := s.handling.removals.isEmpty && !cutBeforePick s o

/-- The order as it is sent again (R25). -/
def Order.again (o : Order) : Plan := ⟨o.kind, o.wafer, o.src, o.dst, o.arm⟩

/-- NOT_PICKED or NOT_PLACED: the wafer did not move (R25). A first one leaves it at the order's source while RESETTING,
also where a carrier removal waits, which the completion of the soft reset clears (R47).
That handling is IDLE from then on, and R45 is not made, is the model's reading: DEDUCED (log 40). -/
def notMoved (o : Order) (s : State) : State :=
  if o.retry then resolveEnd o (some haltRetryFailed) (loseWafer o s)
  else if s.cmd.resetting then idleHandling (settleHome o.wafer (clearOrder s))
  else if isRetried s o then sendOrder o.again true s
  else resolveEnd o none (settleHome o.wafer (clearOrder s))

/-- A late DONE is refused (R28). -/
def lateDone (tag : BitVec 8) (r : DoneResult) (s : State) : State :=
  let wafer := (s.handling.lastExpired.filter fun e => e.1 == tag).map (·.2)
  postEvent .lateCompletion wafer (word tag.toNat) (word (doneCode r)) s

/-- A DONE ends the order in flight by its result, or is late (R23 to R28). -/
def takeDone (tag : BitVec 8) (r : DoneResult) (s : State) : State :=
  match s.handling.order with
  | none => lateDone tag r s
  | some o =>
    if o.tag ≠ tag then lateDone tag r s
    else
      match r with
      | .ok => resolveEnd o none (completeOrder o s)
      | .fault => resolveEnd o (some haltFault) (loseWafer o s)
      | .notPicked => notMoved o s
      | .notPlaced => notMoved o s

/-- The timer of the order in flight has run out (R27). -/
def expireOrder (s : State) : State :=
  match s.handling.order with
  | none => s
  | some o =>
    if o.timer = 0 then
      let s1 := loseWafer o s
      resolveEnd o (some haltTimeout)
        { s1 with handling := { s1.handling with lastExpired := some (o.tag, o.wafer) } }
    else s

/-! ## Recovery (R30, R31) -/

/-- The place a location code of RECOVER_WAFER names (R30). -/
def placeOfCode : Nat → Option Location
  | 0 => some .slot | 1 => some .armU | 2 => some .armL | 3 => some .pa | 4 => some .ll | 5 => some .stage
  | _ => none

/-- The place named is empty; a wafer's own home slot is empty while the wafer is out (R21, R30). -/
def canRecoverTo (s : State) (l : Location) : Bool := l == .slot || isEmptyPlace s l

/-- The effect of an accepted recovery (R30, R31): location, the end of the journey forward, home at once in
the home slot, and IDLE once no wafer is UNKNOWN. -/
def recover (i : Nat) (l : Location) (s : State) : State :=
  let s1 := moveWafer i l s
  let forward := (waferAt s1 i).any fun w => w.phase == .toPA || w.phase == .prealigned
  let s2 := settleHome i (if forward then enterReviewDone i .cut s1 else s1)
  if anyUnknown s2 then s2 else idleHandling s2

/-! ## Prealigning (R33, R34) -/

/-- The prealignment in progress of a wafer ends. -/
def clearPrealign (s : State) : State := { s with handling := { s.handling with prealign := none } }

/-- PREALIGNED for the wafer of the prealignment in progress (R33). -/
def takePrealigned (i : Nat) (p : Prealign) (s : State) : State :=
  match s.handling.prealign with
  | none => s
  | some (j, _) =>
    if j = i then
      wantPlan (updWafer i (fun w => { w with
        prealign := some p, phase := if w.phase = .prealigning then .prealigned else w.phase })
        (clearPrealign s))
    else s

/-- The prealignment in progress fails; cause 1 is a message, 2 an expiry (R34). -/
def failPrealign (i cause : Nat) (s : State) : State :=
  let s1 := clearPrealign s
  let s2 :=
    if (waferAt s1 i).any fun w => w.phase == .prealigning then enterReviewDone i .prealignFailed s1 else s1
  wantPlan (postEvent .prealignError (some i) (word cause) 0 s2)

/-- PREALIGN_FAIL (R34). -/
def takePrealignFail (i : Nat) (s : State) : State :=
  match s.handling.prealign with
  | none => s
  | some (j, _) => if j = i then failPrealign i 1 s else s

/-- The prealign timer has run out (R34). -/
def expirePrealign (s : State) : State :=
  match s.handling.prealign with
  | none => s
  | some (i, t) => if t = 0 then failPrealign i 2 s else s

/-! ## Carrier ports (R41 to R45) -/

/-- A PORT message (R41): open without present is taken as neither. -/
def takePort (p : Port) (present opened : Bool) (s : State) : State :=
  let ps := portState s p
  let raw : PortPair := ⟨present, present && opened⟩
  if raw = ps.raw then s
  else
    setPort p { ps with raw := raw, timer := if raw = ps.debounced then none else some Config.debounceMs } s

/-- A SLOTMAP for an open port replaces its slot map (R42). -/
def takeSlotmap (p : Port) (flags : BitVec 25) (s : State) : State :=
  let ps := portState s p
  if ps.debounced.opened then setPort p { ps with slotMap := some flags } s else s

/-- How many wafers of a lot are out of their slots. -/
def outCount (s : State) (run : Nat) : Nat :=
  (wafersOfLot s run).countP fun i => (waferAt s i).any fun w => w.location != .slot

/-- The queued lot that uses a port, if any (R1). -/
def lotOnPort (s : State) (p : Port) : Option Lot := (lotList s).find? fun l => usesPort s l p

/-- A port of a lot with wafers out stops being open (R43). -/
def portClosed (p : Port) (s : State) : State :=
  match lotOnPort s p with
  | none => s
  | some l =>
    if outCount s l.run = 0 then s
    else postEvent .portClosed none (word (portNumber p)) (word (outCount s l.run)) s

/-- The wafers that a carrier removal makes UNKNOWN: on an arm, in PA or in LL, but for the wafer of an
order in flight (R44). -/
def removedWafers (s : State) (run : Nat) : List Nat :=
  (wafersOfLot s run).filter fun i =>
    ((waferAt s i).any fun w => w.location.isHandlers) && !orderMoves s i

/-- The carrier of a lot is removed (R44, R45). -/
def carrierRemoved (p : Port) (s : State) : State :=
  match lotOnPort s p with
  | none => s
  | some l =>
    let s1 := if l.state = .aborting ∨ l.state = .closing then s else abortLot l.run s
    let gone := removedWafers s1 l.run
    let s2 := gone.foldl (fun s i => moveWafer i .unknown s) s1
    if s2.handling.order.isSome then
      { s2 with handling := { s2.handling with removals := s2.handling.removals ++ [(l.run, p)] } }
    else if gone.isEmpty || s2.handling.state == .halted then s2
    else haltHandling gone.head? haltCarrierRemoved (word (portNumber p)) s2

/-- The debounce timer of a port has run out: the debounced pair takes the raw pair, and the change takes
effect (R41); while RESETTING, R43 and R44 are not applied (R47). -/
def expireDebounce (p : Port) (s : State) : State :=
  let ps := portState s p
  if ps.timer = some 0 then
    let old := ps.debounced
    let s1 := setPort p { ps with
      debounced := ps.raw, timer := none
      slotMap := if old.opened && ps.raw.opened then ps.slotMap else none } s
    let s2 := if old.opened && !ps.raw.opened && !s.cmd.resetting then portClosed p s1 else s1
    let s3 := if old.present && !ps.raw.present && !s.cmd.resetting then carrierRemoved p s2 else s2
    if !old.opened && ps.raw.opened then wantPlan s3 else s3
  else s

end Sys2Proof.Machine
end

