-- ==== Sys2Proof/Machine/HeightGuard.lean ====
section
/-! DEFINITION. The height guard, and what a height sample does in the focus unit and in the guard
(R115, R139 to R146). -/

namespace Sys2Proof.Machine

/-! ## Counting (R140) -/

/-- The guard filter F. -/
def guardFilter (s : State) : Nat := paramNat s 20

/-- The guard counts a sample when it is valid and the parameter copy holds band, filter and mode (R139, R140). -/
def guardCounts (s : State) (q : Byte) : Bool := s.cmd.paramsValid && validSample s q

/-- A height in the guard band; a height at a bound is in band (R140). -/
def inBand (s : State) (z : Word) : Bool := decide (param s 18 ≤ z.toInt) && decide (z.toInt ≤ param s 19)

/-- A run increased by one; it saturates at 255 (R139). -/
def runUp (n : Nat) : Nat := min 255 (n + 1)

/-- The two runs after a valid sample (R140). -/
def countRuns (inside : Bool) (g : Guard) : Guard :=
  if inside then { g with inRun := runUp g.inRun, outRun := 0 }
  else { g with outRun := runUp g.outRun, inRun := 0 }

/-- The guard's runs after a sample; an invalid sample changes neither. -/
def guardCount (z : Word) (q : Byte) (s : State) : State :=
  if guardCounts s q then { s with guard := countRuns (inBand s z) s.guard } else s

/-! ## Trips and releases (R141, R142) -/

/-- What a sample makes the guard do. -/
inductive GuardAction where
  | none | softTrip | hardTrip | release
  deriving DecidableEq, Repr

/-- The guard mode is HARD. -/
def guardHard (s : State) : Bool := param s 21 == 1

/-- The action of a valid sample out of band whose run has reached F (R141). -/
def tripAction (hard : Bool) : GuardState → GuardAction
  | .normal => if hard then .hardTrip else .softTrip
  | .softTripped => if hard then .hardTrip else .none
  | .hardTripped => .none

/-- The action of a sample, once it is counted (R141, R142); `s` is the state after the counting. -/
def guardAction (z : Word) (q : Byte) (s : State) : GuardAction :=
  if guardCounts s q then
    if inBand s z then
      if s.guard.state = .softTripped ∧ guardFilter s ≤ s.guard.inRun then .release else .none
    else if guardFilter s ≤ s.guard.outRun then tripAction (guardHard s) s.guard.state
    else .none
  else .none

def setGuard (st : GuardState) (s : State) : State := { s with guard := { s.guard with state := st } }

/-- The state and the trip height of a trip (R141). -/
def tripGuard (st : GuardState) (z : Word) (s : State) : State :=
  { s with guard := { s.guard with state := st, tripHeight := some z.toInt } }

/-- GUARD_TRIP, with the wafer on the stage or none (R141). -/
def tripEvent (kind : Nat) (z : Word) (s : State) : State :=
  postEvent .guardTrip (stageWafer s) (word kind) z s

/-- GUARD_RELEASE (R142, R145). -/
def releaseEvent (kind : Nat) (z : Word) (s : State) : State :=
  postEvent .guardRelease (stageWafer s) (word kind) z s

/-- What a HARD trip does in the visit unit: GUARD joins the hold set, and a visit in flight ends (R112, R143). -/
def hardTripActions (s : State) : State :=
  let s1 := { s with visit := { s.visit with hold := { s.visit.hold with guard := true } } }
  match s1.visit.current with
  | none => s1
  | some v => tripVisit v s1

/-! ## A sample (R115) -/

/-- The focus unit's part of a sample: the debt, the lock, the trace, and the visit unit's focus test on a
change that the focus unit reports (R97, R115, R121). R115 gives the debt and the lock no order: an owed FOCUS_SET goes
out first, and then that of a change of the output. DEDUCED (log 41). -/
def focusSample (z : Word) (q : Byte) (s : State) : State :=
  let s1 := payDebt s
  match s1.visit.current with
  | none => recordSample z q s1
  | some v =>
    let s2 := recordSample z q (lockSample v z q s1)
    if s2.focus.state ≠ s1.focus.state ∨ s2.focus.unsettled ≠ s1.focus.unsettled then settleTest s2 else s2

/-- The two units take one sample, "whichever of the two units takes the sample first" (R141). With no
visit in flight the order shows nowhere; with one, a free choice gives it (log 10). -/
def inEitherOrder (focusPart guardPart : State → State) (s : State) : State :=
  if s.visit.current.isSome then
    let s1 := { s with choices := s.choices + 1 }
    if Config.guardFirst s.choices then focusPart (guardPart s1) else guardPart (focusPart s1)
  else guardPart (focusPart s)

/-- A SAMPLE (R115, R140 to R143). The output is held from the tripping sample on, and a release sets the
output once the releasing sample has been taken. A HARD trip posts GUARD_TRIP before what the visit's end posts.
DEDUCED (log 33). -/
def takeSample (z : Word) (q : Byte) (s : State) : State :=
  let s0 := guardCount z q s
  match guardAction z q s0 with
  | .none => focusSample z q s0
  | .softTrip => inEitherOrder (focusSample z q) (tripEvent 1 z) (tripGuard .softTripped z s0)
  | .hardTrip =>
    inEitherOrder (focusSample z q) (fun s => hardTripActions (tripEvent 2 z s)) (tripGuard .hardTripped z s0)
  | .release => refreshOutput (setGuard .normal (inEitherOrder (focusSample z q) (releaseEvent 1 z) s0))

/-! ## Clearing a HARD trip (R145) -/

/-- The guard clears, in the order of R145. -/
def clearGuard (s : State) : State :=
  let s1 := setGuard .normal s
  let s2 := dispatch { s1 with visit := { s1.visit with hold := { s1.visit.hold with guard := false } } }
  releaseEvent 2 0 (wantPlan (refreshOutput s2))

end Sys2Proof.Machine
end

