-- ==== Sys2Proof/Machine/Commands.lean ====
section
/-! DEFINITION. The command unit takes a command: the tests of R188, the command status, and the commands
that other chapters carry out (R2, R7 to R11, R18, R30, R66, R84, R109, R110, R145, R172, R188 to R191). -/

namespace Sys2Proof.Machine

/-! ## Command status (R188, R189) -/

/-- The command status shows a code. -/
def answer (c : CommandCode) (s : State) : State := { s with cmd := { s.cmd with code := c } }

/-- A command is counted, and its value shown (R188, R189). -/
def countCommand (value : Byte) (s : State) : State :=
  { s with cmd := { s.cmd with count := s.cmd.count + 1, echoed := value } }

/-- The copy of argument cell `k` (R166). -/
def arg (s : State) (k : Nat) : Word := s.cmd.args.getD k 0

/-- The wafer record that A0 names; none for A0 greater than 49. -/
def namedWafer (s : State) : Option Wafer :=
  if (arg s 0).toNat < Config.waferCount then waferAt s (arg s 0).toNat else none

/-- The wafer index in A0. -/
def namedIndex (s : State) : Nat := (arg s 0).toNat

/-! ## LOT_START, first part (R2) -/

/-- The LOADMAP job that reads a layout record: at index A3, or record 0 when A3 is above 15 (R2). -/
def layoutJob (z : Zone) (a3 : Word) : Job :=
  ⟨.layout, readBlocks 2 (z.base + 64 * (if a3.toNat ≤ 15 then a3.toNat else 0)), []⟩

/-- The layout read joins the job queue, or the LOT_START waits for a place (R2, R184). -/
def queueLayoutRead (a3 : Word) (s : State) : State :=
  match zoneOf s .layout with
  | none => s
  | some z => if mayTakePlace s .layout then pushJob (layoutJob z a3) (endWait .layout s) else beginWait .layout s

/-- A LOT_START is refused by R2. -/
def startRefused (s : State) : Bool := s.path.mode != .mapped || !mapComplete s || s.path.reloadPending

/-- The LOT_START in progress, with the arguments of the moment (R2). -/
def openLotStart (s : State) : State :=
  { s with cmd := { s.cmd with lotStart := some ⟨arg s 0, arg s 1, arg s 2, arg s 3⟩ } }

def cmdLotStart (s : State) : State :=
  if startRefused s then answer .noMap s else queueLayoutRead (arg s 3) (answer .none (openLotStart s))

/-! ## Lot commands (R7, R8, R10, R11) -/

/-- An ACTIVE active lot becomes HELD (R7). -/
def holdActive (s : State) : State :=
  match s.lots.active with
  | none => s
  | some l => if l.state = .active then postEvent .lotHeld none l.number 0 (setLotState l.run .held s) else s

def cmdLotHold (s : State) : State :=
  if (lotList s).isEmpty then answer .noLot s else holdActive (answer .accepted s)

/-- A HELD lot takes the state of its position (R8). -/
def releaseTo (st : LotState) (l : Lot) : Lot := if l.state = .held then { l with state := st } else l

/-- Every HELD lot is released (R8). -/
def releaseLots (s : State) : State :=
  if (lotList s).any fun l => l.state == .held then
    wantPlan { s with lots := ⟨s.lots.active.map (releaseTo .active), s.lots.second.map (releaseTo .pending)⟩ }
  else s

def cmdLotRelease (s : State) : State :=
  if (lotList s).isEmpty then answer .noLot s else releaseLots (answer .accepted s)

/-- An ACTIVE or HELD active lot is aborted (R10). -/
def abortActive (s : State) : State :=
  match s.lots.active with
  | none => s
  | some l => if l.state = .active ∨ l.state = .held then abortLot l.run s else s

/-- A PENDING or HELD lot in the pending position is aborted (R11). -/
def abortPending (s : State) : State :=
  match s.lots.second with
  | none => s
  | some l => if l.state = .pending ∨ l.state = .held then abortLot l.run s else s

def cmdLotAbort (s : State) : State :=
  if (lotList s).isEmpty then answer .noLot s
  else
    let s1 := abortActive (answer .accepted s)
    if arg s 0 = 1 then abortPending s1 else s1

/-! ## Wafer and review commands (R18, R66, R84, R109, R110) -/

def cmdWaferAbort (s : State) : State :=
  match namedWafer s with
  | none => answer .notReviewing s
  | some w =>
    if w.phase = .aligning ∨ w.phase = .reviewing then abortWafer (namedIndex s) (answer .accepted s)
    else answer .notReviewing s

/-- Review end is set for a wafer, and the dispatcher runs if it is REVIEWING on the stage (R84). -/
def endReview (i : Nat) (w : Wafer) (s : State) : State :=
  if w.reviewEnd then s
  else
    let s1 := updWafer i (fun w => { w with reviewEnd := true }) s
    if w.phase = .reviewing ∧ w.location = .stage then dispatch s1 else s1

def cmdReviewEnd (s : State) : State :=
  match namedWafer s with
  | none => answer .notReviewing s
  | some w =>
    if w.phase = .skipped ∨ w.phase = .reviewDone ∨ w.phase = .returned then answer .notReviewing s
    else endReview (namedIndex s) w (answer .accepted s)

def cmdReviewSuspend (s : State) : State :=
  answer .accepted { s with visit := { s.visit with hold := { s.visit.hold with suspend := true } } }

def cmdReviewResume (s : State) : State :=
  dispatch (answer .accepted
    { s with visit := { s.visit with hold := { s.visit.hold with suspend := false, stage := false } } })

def cmdRealign (s : State) : State :=
  match namedWafer s with
  | none => answer .notReviewing s
  | some w =>
    if w.phase ≠ .reviewing ∨ w.aborting then answer .notReviewing s
    else if w.align.state ≠ .none then answer .accepted s
    else startRealign (namedIndex s) 2 (answer .accepted s)

/-! ## Guard, recovery, map and reset (R30, R145, R172, R191) -/

def cmdGuardClear (s : State) : State :=
  match s.guard.state with
  | .normal => answer .accepted s
  | .softTripped => answer .accepted s
  | .hardTripped => if s.guard.inRun < guardFilter s then answer .stillOut s else clearGuard (answer .accepted s)

/-- The place that A1 names, where it is empty (R30, test 3). -/
def recoverPlace (s : State) : Option Location := (placeOfCode (arg s 1).toNat).filter (canRecoverTo s)

def cmdRecoverWafer (s : State) : State :=
  if s.handling.state ≠ .halted then answer .notHalted s
  else if (namedWafer s).any fun w => w.location == .unknown then
    match recoverPlace s with
    | none => answer .occupied s
    | some l => recover (namedIndex s) l (answer .accepted s)
  else answer .notUnknown s

/-- A map reload is asked for: it begins at once, or waits (R172). -/
def requestReload (s : State) : State :=
  if (lotList s).isEmpty && !s.cmd.resetting then beginReload s
  else { s with path := { s.path with reloadPending := true } }

def cmdMapReload (s : State) : State := requestReload (answer .accepted s)

/-! ## The start of a soft reset (R191) -/

/-- The command unit's part: RESETTING, reset cause and cause set; a LOT_START is abandoned (R190, R191). -/
def resetCommand (s : State) : State :=
  endWait .layout { s with cmd := { s.cmd with
    code := .accepted, resetting := true, resetCause := .soft, warm := true, lotStart := none
    causes := if s.guard.state = .hardTripped then s.cmd.causes &&& Category.fault.bit else 0 } }

/-- The visit unit's part (R114). -/
def resetVisit (s : State) : State :=
  let s1 := haltMove s
  { s1 with visit := { s1.visit with
    current := none, lastResult := none
    hold := ⟨false, false, none, s1.visit.hold.guard && s1.guard.state == .hardTripped⟩ } }

/-- The focus unit's part (R138). -/
def resetFocus (s : State) : State :=
  let s1 := focusIdle s
  { s1 with focus := { s1.focus with map := [], seed := none, trace := none, traceHanded := false } }

/-- The wafer's accumulators and its attempt are dropped (R68, R165, log 18). -/
def resetWafer (w : Wafer) : Wafer := { w with acc := none, align := emptied .none w.align }

/-- The parts of the revisit, report and alignment units (R68, R89, R165). -/
def resetRecords (s : State) : State :=
  let g := fun l : Lot => { l with acc := none }
  endWait .report { s with
    table := []
    wafers := s.wafers.map (Option.map resetWafer)
    lots := ⟨s.lots.active.map g, s.lots.second.map g⟩
    report := { s.report with queue := [] } }

/-- SOFT_RESET: the start steps of the units (R191). From now on no posting is taken, so none waits (R173). -/
def cmdSoftReset (s : State) : State :=
  endWait .fetch (resetRecords (resetFocus (resetVisit (resetCommand s))))

/-! ## Taking a command (R188) -/

/-- The first test of R188 that holds. A value that names no command is UNKNOWN_COMMAND, by the order of the tests, also
while a LOT_START is in progress, where R190 speaks of OVERRUN alone. DEDUCED (log 38). -/
def firstRefusal (value : Byte) (s : State) : Option CommandCode :=
  if s.cmd.resetting then some .inReset
  else if value.toNat = 0 ∨ 13 < value.toNat then some .unknownCommand
  else if s.path.mode = .transparent ∧ value ≠ 12 ∧ value ≠ 13 then some .noMap
  else if s.cmd.lotStart.isSome ∧ value ≠ 13 then some .overrun
  else none

/-- The command of a value that passes the tests (R188). -/
def carryOut (value : Nat) (s : State) : State :=
  match value with
  | 1 => cmdLotStart s
  | 2 => cmdLotHold s
  | 3 => cmdLotRelease s
  | 4 => cmdLotAbort s
  | 5 => cmdWaferAbort s
  | 6 => cmdReviewEnd s
  | 7 => cmdReviewSuspend s
  | 8 => cmdReviewResume s
  | 9 => cmdRealign s
  | 10 => cmdGuardClear s
  | 11 => cmdRecoverWafer s
  | 12 => cmdMapReload s
  | 13 => cmdSoftReset s
  | _ => s

/-- A command is taken: counted, tested, and refused or carried out (R188). -/
def takeCommand (value : Byte) (s : State) : State :=
  let s1 := countCommand value s
  match firstRefusal value s1 with
  | some c => answer c s1
  | none => carryOut value.toNat s1

end Sys2Proof.Machine
end

