-- ==== Sys2Proof/Machine/Windows.lean ====
section
/-! DEFINITION. What the upstream side reads: the wafer window, the visit window and the three overlay cells,
laid over memory as the path mode says (R113, R166, R174, R181, R187). -/

namespace Sys2Proof.Machine

/-! ## The wafer window (R187) -/

/-- The wafer index that the window select copy holds (R193). -/
def selectedWafer (s : State) : Nat := s.cmd.windowSel.toNat % 256

/-- Word 0 with a record. -/
def waferWord0 (i : Nat) (w : Wafer) : Word :=
  word (flagBit true 0 + put i 8 8 + put w.location.code 16 4 + put w.phase.code 20 4
    + put (optCode WaferOutcome.code w.outcome) 24 4)

/-- Word 2: home slot and alignment state. -/
def waferWord2 (i : Nat) (w : Wafer) : Word :=
  word (put (portNumber (homePort i)) 0 8 + put (homeSlot i) 8 8 + put w.align.used 16 2
    + put w.align.state.code 20 2 + flagBit (w.align.kind == .realign) 22
    + put (optCode Verdict.code w.align.lastVerdict) 24 4)

/-- Word 7: present flags and marks. -/
def waferWord7 (w : Wafer) : Word :=
  word (flagBit w.prealign.isSome 0 + flagBit w.transform.isSome 1 + flagBit w.reviewEnd 2
    + flagBit w.aborting 3 + flagBit w.acc.isSome 4)

/-- The prealign centre offset. -/
def prealignOffset (p : Option Prealign) : Word :=
  match p with
  | none => 0
  | some p => packPair p.offsetX.toInt p.offsetY.toInt

/-- The 16 words of the window for a record. -/
def waferWords (s : State) (i : Nat) (w : Wafer) : List Word :=
  [waferWord0 i w, w.lotNumber, waferWord2 i w, (w.prealign.map (·.notch)).getD 0, prealignOffset w.prealign,
   wordOfInt ((w.transform.map (·.a)).getD 0), wordOfInt ((w.transform.map (·.b)).getD 0), waferWord7 w,
   wordOfInt w.drift.x, wordOfInt w.drift.y,
   word (put (entriesHeld s i) 0 11 + put (queuedList s i).length 16 11), 0, 0, 0, 0, 0]

/-- The wafer window (R181). With no record, word 0 shows the index selected alone (log 26). -/
def waferWindow (s : State) : List Word :=
  match waferAt s (selectedWafer s) with
  | some w => waferWords s (selectedWafer s) w
  | none => word (put (selectedWafer s) 8 8) :: List.replicate 15 0

/-! ## The visit window (R113, R187) -/

/-- A component of an optional position. -/
def xOf (p : Option Point) : Word := wordOfInt ((p.map (·.x)).getD 0)
def yOf (p : Option Point) : Word := wordOfInt ((p.map (·.y)).getD 0)

/-- The part of word 0 that is shown with a visit and without one. -/
def visitFlags (s : State) : Nat := flagBit s.visit.lastResult.isSome 12 + holdBits s.visit.hold 24

/-- Word 12, and the offset of words 13 and 14: the last result. -/
def lastResultWord (r : Option LastResult) : Word :=
  match r with
  | none => 0
  | some r =>
    word (put r.entry 0 11 + flagBit (!r.found) 12 + put r.finalClass 16 5 + flagBit r.found 21
      + put r.quality 24 8)

def lastOffset (r : Option LastResult) : Option Point := r.map (·.offset)

/-- Words 12 to 15. -/
def resultWords (s : State) : List Word :=
  [lastResultWord s.visit.lastResult, xOf (lastOffset s.visit.lastResult), yOf (lastOffset s.visit.lastResult), 0]

/-- Word 6: move tag and stage fault code. -/
def tagWord (s : State) (tag : BitVec 8) : Word :=
  word (put tag.toNat 0 8 + put s.visit.faultCode.toNat 16 16)

/-- Word 0 with a visit in flight. -/
def visitWord0 (s : State) (v : Visit) : Word :=
  word (put v.state.code 0 3 + put v.source.code 4 2 + flagBit v.arrival.isSome 8 + flagBit v.captured.isSome 9
    + flagBit v.lockedAtStrobe 10 + flagBit v.predictedFocus 11
    + put ((entryAt s v.entry).map (·.retries) |>.getD 0) 16 2 + visitFlags s)

/-- The words of the window with a visit in flight. -/
def visitWords (s : State) (v : Visit) : List Word :=
  [visitWord0 s v, word (put v.entry 0 11 + put v.wafer 16 8), v.defectId,
   ((entryAt s v.entry).map (·.size)).getD 0, wordOfInt v.target.x, wordOfInt v.target.y, tagWord s v.moveTag,
   wordOfInt v.zPred, xOf v.arrival, yOf v.arrival, xOf v.captured, yOf v.captured] ++ resultWords s

/-- The words of the window with none: state NONE, source NOMINAL, the tag of the last MOVE sent. -/
def idleVisitWords (s : State) : List Word :=
  [word (put FocusSource.nominal.code 4 2 + visitFlags s), 0, 0, 0, 0, 0, tagWord s s.visit.tag, 0, 0, 0, 0, 0]
    ++ resultWords s

/-- The visit window (R113). -/
def visitWindow (s : State) : List Word :=
  match s.visit.current with
  | some v => visitWords s v
  | none => idleVisitWords s

/-! ## The overlay (R166, R174, R181) -/

/-- The overlay word at a byte offset of the configuration page, where the path mode has one. -/
def overlayWord (s : State) (offset : Nat) : Option Word :=
  if offset = 0x120 then some (commandStatusWord s)
  else if offset = 0x124 then some (statusWord s)
  else if offset = 0x128 then some (causeWord s)
  else if s.path.mode = .mapped then
    if 0x140 ≤ offset ∧ offset < 0x180 then (waferWindow s)[(offset - 0x140) / 4]?
    else if 0x180 ≤ offset ∧ offset < 0x1C0 then (visitWindow s)[(offset - 0x180) / 4]?
    else none
  else none

/-- The overlay word at a byte address, where there is one. -/
def overlaid (s : State) (a : Nat) : Option Word :=
  if a < Config.pageBase then none else overlayWord s (a - Config.pageBase)

/-- What an upstream read of the word at a byte address answers when it is served: an overlay word from state, and any
other word from memory, protected or not (R178, R181, R182). -/
def upstreamRead (s : State) (a : Nat) : Word := (overlaid s a).getD (readWord s.mem a)

end Sys2Proof.Machine
end

