-- ==== Sys2Proof/Machine/Path.lean ====
section
/-! DEFINITION. The path unit's upstream side: how a word of the upstream bus is decoded, held, dropped, taken
as a posting or forwarded, what the watched and copied cells make of it, the arbiter, and the step
on an empty command queue (R166, R172 to R182, R185). -/

namespace Sys2Proof.Machine

/-! ## Watched and copied cells (R166, R174) -/

/-- Word `k` of a list of copies takes the written lanes. -/
def overlayAt (l : List Word) (k : Nat) (data : Word) (lanes : BitVec 4) : List Word :=
  l.modify k fun old => overlay old data lanes

/-- A5 and below are copied in every mode (R166, log 14). -/
def writeArgument (k : Nat) (data : Word) (lanes : BitVec 4) (s : State) : State :=
  { s with cmd := { s.cmd with args := overlayAt s.cmd.args k data lanes } }

/-- The command cell (R188): lane 0 enabled takes the write as a command. -/
def writeCommandCell (data : Word) (lanes : BitVec 4) (s : State) : State :=
  if lanes.getLsbD 0 then takeCommand (lane data 0) s else s

/-- The attention mask (R196): bits 0 to 4 of the written lanes. -/
def writeMask (data : Word) (lanes : BitVec 4) (s : State) : State :=
  { s with cmd := { s.cmd with mask := (overlay (s.cmd.mask.setWidth 32) data lanes).setWidth 5 } }

/-- The event consumer index (R198): a value below M is taken. -/
def writeEventConsumer (data : Word) (lanes : BitVec 4) (s : State) : State :=
  match zoneOf s .events with
  | none => s
  | some z =>
    let v := (overlay (word s.cmd.evConsumer) data lanes).toNat
    if v < eventPlaces z then { s with cmd := { s.cmd with evConsumer := v } } else s

/-- The report consumer index (R159): a value below N is taken, and the ring test made again. -/
def writeReportConsumer (data : Word) (lanes : BitVec 4) (s : State) : State :=
  match zoneOf s .reports with
  | none => s
  | some z =>
    let v := (overlay (word s.report.consumer) data lanes).toNat
    if v < ringWords z then ringTest { s with report := { s.report with consumer := v } } else s

/-- The window select cell (R193): wafer index and status view. -/
def writeWindowSelect (data : Word) (lanes : BitVec 4) (s : State) : State :=
  { s with cmd := { s.cmd with windowSel := (overlay (s.cmd.windowSel.setWidth 32) data lanes).setWidth 9 } }

/-- PARAM_CLAMPED for a raw word taken outside its range (R203). -/
def clampEvent (n : Nat) (raw : Word) (s : State) : State :=
  if isClamped n raw then postEvent .paramClamped none (word n) raw s else s

/-- The output bounds are parameter words 16 and 17. -/
def isBoundWord (n : Nat) : Bool := n == 16 || n == 17

/-- A parameter word takes the written lanes over its raw copy; a changed output bound goes to the focus unit
at once (R123, R202); a word out of range is reported (R203). Ignored words change nothing. -/
def writeParameter (n : Nat) (data : Word) (lanes : BitVec 4) (s : State) : State :=
  match paramRange n with
  | none => s
  | some _ =>
    let s1 := { s with cmd := { s.cmd with paramRaw := overlayAt s.cmd.paramRaw n data lanes } }
    let s2 := if isBoundWord n && param s n != param s1 n then reclampOutput s1 else s1
    clampEvent n (s1.cmd.paramRaw.getD n 0) s2

/-- The cells that act only while the path is MAPPED (R174). -/
def watchMapped (offset : Nat) (data : Word) (lanes : BitVec 4) (s : State) : State :=
  if s.path.mode ≠ .mapped then s
  else if offset = 0x130 then writeEventConsumer data lanes s
  else if offset = 0x134 then writeReportConsumer data lanes s
  else if offset = 0x138 then writeWindowSelect data lanes s
  else if 0x200 ≤ offset ∧ offset < 0x400 then writeParameter ((offset - 0x200) / 4) data lanes s
  else s

/-- A forwarded write to a word of the configuration page is handed to the unit that owns the cell (R166). -/
def watchCell (offset : Nat) (data : Word) (lanes : BitVec 4) (s : State) : State :=
  if offset = 0 then requestReload s
  else if offset = 0x100 then writeCommandCell data lanes s
  else if 0x104 ≤ offset ∧ offset ≤ 0x118 then writeArgument ((offset - 0x104) / 4) data lanes s
  else if offset = 0x12C then writeMask data lanes s
  else watchMapped offset data lanes s

/-- A forwarded write at any byte address. -/
def watchWrite (a : Nat) (data : Word) (lanes : BitVec 4) (s : State) : State :=
  if a < Config.pageBase then s else watchCell (a - Config.pageBase) data lanes s

/-! ## What a word is (R174, R175, R178) -/

/-- How the path unit serves a word. -/
inductive Nature where
  /-- A read that the part answers from its state (R181). -/
  | overlay
  /-- A read that memory answers (R182). -/
  | memoryRead
  | dropped (zone : Nat)
  | posting (kind : ZoneKind) (slot : Nat)
  | forwarded
  deriving DecidableEq, Repr

/-- The nature of a word. Outside MAPPED no zone is in force, so every write is forwarded (R174). -/
def natureOf (s : State) (u : UpWord) : Nature :=
  match u.access with
  | .read => if (overlaid s u.addr).isSome then .overlay else .memoryRead
  | .write data lanes =>
    match protectedBy s u.addr with
    | some i => .dropped i
    | none =>
      match postingOf s u.addr data lanes with
      | some (k, slot) => .posting k slot
      | none => .forwarded

/-- Whether a word goes to memory and so needs the downstream bus (R182). -/
def Nature.carries : Nature → Bool
  | .overlay | .dropped _ => false
  | .memoryRead | .posting _ _ | .forwarded => true

/-! ## Waiting (R169, R172, R175, R176, R185) -/

/-- A posting waits for a queue place (R175, R184). -/
def lacksPlace (s : State) : Nature → Bool
  | .posting _ _ => !mayTakePlace s .fetch
  | .overlay | .memoryRead | .dropped _ | .forwarded => false

/-- At a depth of 12 or more the head job goes first, unless the bus has been handed to the upstream burst (R185). -/
def yieldsToJobs (s : State) (n : Nature) : Bool :=
  n.carries && decide (Config.jobsFirstDepth ≤ depth s) && s.path.upBurst != .carried

/-- Whether a word must wait. -/
def mustWait (s : State) (u : UpWord) : Bool :=
  pathHolds s || onHeldSlot s u || lacksPlace s (natureOf s u) || yieldsToJobs s (natureOf s u)

/-! ## The arbiter (R185) -/

/-- The words of the access at the front of a list of words: up to the first with no word of its burst after it. -/
def firstAccess : List UpWord → List UpWord
  | [] => []
  | u :: us => if u.more then u :: firstAccess us else [u]

/-- The access at the front of the words that wait claims the bus: it need not wait any more, and has a word to carry
(R185). -/
def upstreamClaims (s : State) : Bool :=
  match s.path.upWait with
  | [] => false
  | u :: us => !mustWait s u && (firstAccess (u :: us)).any fun v => (natureOf s v).carries

/-- The bus is the head job's to use: no upstream burst is between two of its words without waiting, and where an
upstream access claims the bus too, the depth is 12 or more (R185). -/
def jobsHaveBus (s : State) : Bool :=
  s.path.upBurst == .none && (decide (Config.jobsFirstDepth ≤ depth s) || !upstreamClaims s)

/-- The kind of the head job, where the downstream bus is the jobs' to use (R183, R185). -/
def headKind (s : State) : Option JobKind :=
  if jobsHaveBus s then s.path.jobs.head?.map (·.kind) else none

/-- The downstream bus while no command is taken: the head job runs its next burst, unless that is its last, which its
completion row runs, or the bus is not the jobs' to use (R183, R185).
DESIGN CHOICE (log 4). -/
def idleBurst (s : State) : State :=
  match s.path.jobs with
  | ⟨k, b :: b' :: bs, got⟩ :: js =>
    if jobsHaveBus s then
      { s with
        mem := (runBurst s.mem got b).1
        path := { s.path with jobs := ⟨k, b' :: bs, (runBurst s.mem got b).2⟩ :: js } }
    else s
  | _ => s

/-! ## Serving a word (R175, R178, R179, R195) -/

/-- The event of a drop, where the zone's reported mark is clear; the mark is set (R179). -/
def reportDrop (i a : Nat) (s : State) : State :=
  if s.path.reported.getD i false then s
  else
    postEvent .protectDrop none (word i) (word a)
      { s with path := { s.path with reported := s.path.reported.set i true } }

/-- A word dropped in zone `i` (R179). -/
def dropWord (i a : Nat) (s : State) : State :=
  reportDrop i a
    { s with path := { s.path with
        drops := s.path.drops.modify i fun n => min 65535 (n + 1), lastDrop := some i } }

/-- The FETCH job of a posting: words 1 to 6 of the slot (R175). The sequence number is lane 0 of the data word on the
bus, where the byte enables leave that lane out too. DEDUCED (log 42). -/
def fetchJob (k : ZoneKind) (slot : Nat) (data : Word) : Job :=
  ⟨.fetch slot k (tagSeq data) (tagLast data), [.read (slot + 4) 6], []⟩

/-- A posting is taken: its FETCH job is queued and the slot is held (R175). -/
def takePosting (k : ZoneKind) (slot : Nat) (data : Word) (s : State) : State :=
  pushJob (fetchJob k slot data) (endWait .fetch { s with path := { s.path with held := s.path.held ++ [slot] } })

/-- A write reaches memory with its data and byte enables unchanged (R178). -/
def forward (a : Nat) (data : Word) (lanes : BitVec 4) (s : State) : State :=
  { s with mem := writeWord s.mem a data lanes }

/-- The word read goes out, as it stands when it is served (R181, R182). -/
def answerRead (a : Nat) (s : State) : State :=
  { s with path := { s.path with answered := upstreamRead s a :: s.path.answered } }

/-- A read is answered; that of the cause cell acts on the state (R195). -/
def serveRead (a : Nat) (s : State) : State :=
  if a = Config.pageBase + 0x128 then readCauseCell (answerRead a s) else answerRead a s

/-- The effect of a word, once it waits no longer. -/
def serveAccess (u : UpWord) (s : State) : State :=
  match u.access with
  | .read => serveRead u.addr s
  | .write data lanes =>
    match natureOf s u with
    | .overlay => s
    | .memoryRead => s
    | .dropped i => dropWord i u.addr s
    | .posting k slot => takePosting k slot data (forward u.addr data lanes s)
    | .forwarded => watchWrite u.addr data lanes (forward u.addr data lanes s)

/-- A burst after a word of it has been served: `carries` says whether the word goes to memory, and `more` whether
another follows (R185). -/
def UpBurst.after (carries more : Bool) (b : UpBurst) : UpBurst :=
  if !more then .none else if carries || b == .carried then .carried else .begun

/-- The burst of a word that is served: from its first word on no job burst comes before its last, and from the first
that goes to memory it has the bus (R185, log 8). -/
def takeBus (u : UpWord) (s : State) : State :=
  { s with path := { s.path with upBurst := s.path.upBurst.after (natureOf s u).carries u.more } }

/-- A word is served, and the step's planner run is made. -/
def serveWord (u : UpWord) (s : State) : State := finish (serveAccess u (takeBus u s))

/-- The words that wait; a burst that waits does not hold the bus (R182, R185). -/
def setWaiting (us : List UpWord) (s : State) : State :=
  noteWait { s with path := { s.path with upWait := us, upBurst := .none } }

/-- A word arrives on the upstream bus: behind the words that wait, or served, or the first to wait (R176, R182). -/
def upstream (u : UpWord) (s : State) : State :=
  match s.path.upWait with
  | [] => if mustWait s u then setWaiting [u] s else serveWord u s
  | v :: us => { s with path := { s.path with upWait := (v :: us) ++ [u] } }

/-- The words of a burst arrive one after the other (R182). -/
def upstreamBurst (us : List UpWord) (s : State) : State := us.foldl (fun s u => upstream u s) s

/-- The words that wait are served up to the end of the first access, or to a word that must wait still
(R176, R182). -/
def serveWaiting : List UpWord → State → State
  | [], s => { s with path := { s.path with upWait := [] } }
  | u :: us, s =>
    if mustWait s u then setWaiting (u :: us) s
    else
      let s1 := serveWord u { s with path := { s.path with upWait := us } }
      if u.more then serveWaiting us s1 else noteWait s1

/-! ## Read bursts, and the step on an empty command queue (R181, R182, R185) -/

/-- The words of a read burst, in address order (R182). -/
def ReadAccess.words (r : ReadAccess) : List UpWord :=
  (List.range (r.after.val + 1)).map fun k => ⟨r.start + BitVec.ofNat 22 k, .read, decide (k < r.after.val) || r.more⟩

/-- The part while no command is taken: the read burst at the front of those sent comes on the upstream bus, and with
none the downstream bus runs a burst of the head job (R181, R182, R183, R185).
DESIGN CHOICE (logs 4 and 34). -/
def idleStep (s : State) : State :=
  match s.reads with
  | [] => idleBurst s
  | r :: rs => upstreamBurst r.words { s with reads := rs }

end Sys2Proof.Machine
end

