-- ==== Sys2Proof/Machine/BusRows.lean ====
section
/-! DEFINITION. The rows of the upstream bus other than commands (R166, R175, R182, R195). -/

namespace Sys2Proof.Machine

/-- MAP_HEADER_WRITE (R172). -/
def execMapHeaderWrite (w : WordWrite) (s : State) : Host.Outcome State Fault Refusal :=
  .next (upstream (cellWrite 0x000 w) s)

/-- ARGUMENT_CELL_WRITE, cells A0 to A5 (R166). -/
def execArgumentCellWrite (cell : Fin 6) (w : WordWrite) (s : State) : Host.Outcome State Fault Refusal :=
  .next (upstream (cellWrite (0x104 + 4 * cell.val) w) s)

/-- ATTENTION_MASK_WRITE (R196). -/
def execAttentionMaskWrite (w : WordWrite) (s : State) : Host.Outcome State Fault Refusal :=
  .next (upstream (cellWrite 0x12C w) s)

/-- EVENT_CONSUMER_INDEX_WRITE (R198). -/
def execEventConsumerIndexWrite (w : WordWrite) (s : State) : Host.Outcome State Fault Refusal :=
  .next (upstream (cellWrite 0x130 w) s)

/-- REPORT_CONSUMER_INDEX_WRITE (R159). -/
def execReportConsumerIndexWrite (w : WordWrite) (s : State) : Host.Outcome State Fault Refusal :=
  .next (upstream (cellWrite 0x134 w) s)

/-- WINDOW_SELECT_WRITE (R193). -/
def execWindowSelectWrite (w : WordWrite) (s : State) : Host.Outcome State Fault Refusal :=
  .next (upstream (cellWrite 0x138 w) s)

/-- PARAMETER_WRITE, words 0 to 127 of the parameter area (R202). -/
def execParameterWrite (n : Fin 128) (w : WordWrite) (s : State) : Host.Outcome State Fault Refusal :=
  .next (upstream (cellWrite (0x200 + 4 * n.val) w) s)

/-- UPSTREAM_WRITE: a word with no row of its own, decoded by its address (R178, R182). -/
def execUpstreamWrite (index : BitVec 22) (w : WordWrite) (s : State) : Host.Outcome State Fault Refusal :=
  .next (upstream (memoryWrite index w) s)

/-- POSTING: the tag write of a slot with the post flag set (R175). -/
def execPosting (index : BitVec 22) (w : WordWrite) (s : State) : Host.Outcome State Fault Refusal :=
  .next (upstream (memoryWrite index w) s)

/-- BURST_RESUME: the access that waited is served (R176, R182). -/
def execBurstResume (s : State) : Host.Outcome State Fault Refusal :=
  .next (serveWaiting s.path.upWait s)

/-- CAUSE_CELL_READ, with the words of its burst that are served with it (R182, R195). -/
def execCauseCellRead (b : ReadBurst) (s : State) : Host.Outcome State Fault Refusal :=
  .next (upstreamBurst (causeBurst b) s)

end Sys2Proof.Machine
end

