-- ==== Sys2Proof/Machine/CommandRows.lean ====
section
/-! DEFINITION. The rows of the command cell: a write with lane 0 enabled arrives on the upstream bus, and is taken
as a command when the path unit serves it (R188). -/

namespace Sys2Proof.Machine

/-- LOT_START, command value 1 (R2). -/
def execLotStart (w : CommandWrite) (s : State) : Host.Outcome State Fault Refusal :=
  .next (upstream (commandWrite 1 w) s)

/-- LOT_HOLD, command value 2 (R7). -/
def execLotHold (w : CommandWrite) (s : State) : Host.Outcome State Fault Refusal :=
  .next (upstream (commandWrite 2 w) s)

/-- LOT_RELEASE, command value 3 (R8). -/
def execLotRelease (w : CommandWrite) (s : State) : Host.Outcome State Fault Refusal :=
  .next (upstream (commandWrite 3 w) s)

/-- LOT_ABORT, command value 4 (R10, R11). -/
def execLotAbort (w : CommandWrite) (s : State) : Host.Outcome State Fault Refusal :=
  .next (upstream (commandWrite 4 w) s)

/-- WAFER_ABORT, command value 5 (R18). -/
def execWaferAbort (w : CommandWrite) (s : State) : Host.Outcome State Fault Refusal :=
  .next (upstream (commandWrite 5 w) s)

/-- REVIEW_END, command value 6 (R84). -/
def execReviewEnd (w : CommandWrite) (s : State) : Host.Outcome State Fault Refusal :=
  .next (upstream (commandWrite 6 w) s)

/-- REVIEW_SUSPEND, command value 7 (R109). -/
def execReviewSuspend (w : CommandWrite) (s : State) : Host.Outcome State Fault Refusal :=
  .next (upstream (commandWrite 7 w) s)

/-- REVIEW_RESUME, command value 8 (R110). -/
def execReviewResume (w : CommandWrite) (s : State) : Host.Outcome State Fault Refusal :=
  .next (upstream (commandWrite 8 w) s)

/-- REALIGN, command value 9 (R66). -/
def execRealign (w : CommandWrite) (s : State) : Host.Outcome State Fault Refusal :=
  .next (upstream (commandWrite 9 w) s)

/-- GUARD_CLEAR, command value 10 (R145). -/
def execGuardClear (w : CommandWrite) (s : State) : Host.Outcome State Fault Refusal :=
  .next (upstream (commandWrite 10 w) s)

/-- RECOVER_WAFER, command value 11 (R30, R31). -/
def execRecoverWafer (w : CommandWrite) (s : State) : Host.Outcome State Fault Refusal :=
  .next (upstream (commandWrite 11 w) s)

/-- MAP_RELOAD, command value 12 (R172). -/
def execMapReload (w : CommandWrite) (s : State) : Host.Outcome State Fault Refusal :=
  .next (upstream (commandWrite 12 w) s)

/-- SOFT_RESET, command value 13 (R191). -/
def execSoftReset (w : CommandWrite) (s : State) : Host.Outcome State Fault Refusal :=
  .next (upstream (commandWrite 13 w) s)

/-- UNKNOWN_COMMAND, any value that names no command (R188). -/
def execUnknownCommand (value : BitVec 8) (w : CommandWrite) (s : State) : Host.Outcome State Fault Refusal :=
  .next (upstream (commandWrite value w) s)

end Sys2Proof.Machine
end

