-- ==== Sys2Proof/Machine/Records.lean ====
section
/-! DEFINITION. The answers to posted records (R50, R51, R70 to R75, R101, R102, R177), and the completion of
ACCEPT and EVENT jobs (R176, R183). -/

namespace Sys2Proof.Machine

/-! ## FETCH jobs (R177) -/

/-- The completed FETCH job of a zone kind at the head of the queue: slot, sequence number and last flag. -/
def fetchedSlot (s : State) (k : ZoneKind) : Option (Nat × Byte × Bool) :=
  match headKind s with
  | some (.fetch slot k' seq last) => if k' = k then some (slot, seq, last) else none
  | _ => none

/-- The unit's ACCEPT job takes the place that its FETCH job frees (R177). -/
def acceptRecord (slot : Nat) (c : AcceptCode) (seq : Byte) (entry : Nat) (s : State) : State :=
  pushJob (acceptJob slot c seq entry) s

/-! ## Intake records (R72 to R74) -/

/-- Test 1 of R72. -/
def IntakeRecord.badField (r : IntakeRecord) : Bool :=
  decide (49 < r.wafer) || decide (15 < r.roughClass) || decide (3 < r.priority)
    || decide (r.inDie.x < 0) || decide (60000000 < r.inDie.x)
    || decide (r.inDie.y < 0) || decide (60000000 < r.inDie.y) || decide (r.size.toInt < 0)

/-- Test 3 of R72. -/
def isClosed (w : Wafer) : Bool := w.phase == .reviewDone || w.phase == .returned || w.outcome.isSome

/-- The entry of a wafer with a defect id. -/
def entryOf (s : State) (wafer : Nat) (id : Word) : Option Entry :=
  s.table.find? fun e => e.wafer == wafer && e.defectId == id

/-- Tests 4 to 6 of R72, with the entry index of the answer (R74). -/
def capacityAnswer (s : State) (r : IntakeRecord) : AcceptCode × Nat :=
  match entryOf s r.wafer r.defectId with
  | some e => (.duplicate, e.index)
  | none =>
    if Config.waferEntries ≤ entriesHeld s r.wafer then (.waferFull, 0)
    else if Config.tablePlaces ≤ s.table.length then (.tableFull, 0)
    else (.accepted, lowestFree s.table 0)

/-- The answer to an intake record (R72, R74). -/
def intakeAnswer (s : State) (r : IntakeRecord) : AcceptCode × Nat :=
  if r.badField then (.badField, 0)
  else
    match waferAt s r.wafer with
    | none => (.notInLot, 0)
    | some w => if isClosed w then (.waferClosed, 0) else capacityAnswer s r

/-- The entry of an accepted record (R73). -/
def newEntry (r : IntakeRecord) (index arrival : Nat) : Entry where
  index := index
  wafer := r.wafer
  defectId := r.defectId
  col := r.col
  row := r.row
  inDie := r.inDie
  size := r.size
  roughClass := r.roughClass
  priority := r.priority
  arrival := arrival
  state := .queued
  retries := 0
  dispatched := false
  result := none
  visitPart := none

/-- The wafer's next arrival number. -/
def nextArrivalOf (s : State) (i : Nat) : Nat := ((waferAt s i).map (·.nextArrival)).getD 0

/-- The counts that an accepted record changes (R73). -/
def countAccepted (w : Wafer) : Wafer :=
  { w with nextArrival := w.nextArrival + 1
           acc := w.acc.map fun a => { a with accepted := countUp a.accepted } }

/-- An entry joins the table; the dispatcher tests its conditions if its wafer is on the stage (R73, R92). -/
def joinEntry (r : IntakeRecord) (index : Nat) (s : State) : State :=
  let e := newEntry r index (nextArrivalOf s r.wafer)
  let s1 := updWafer r.wafer countAccepted
    { s with table := insertSorted (fun a b => decide (a.index ≤ b.index)) e s.table }
  if stageWafer s1 = some r.wafer then dispatch s1 else s1

/-- An intake record is answered, and joins the table if it is accepted (R70, R72, R177). -/
def answerIntake (slot : Nat) (seq : Byte) (r : IntakeRecord) (s : State) : State :=
  let ans := intakeAnswer s r
  let s1 := acceptRecord slot ans.1 seq ans.2 s
  if ans.1 = .accepted then joinEntry r ans.2 s1 else s1

/-- Completion of a FETCH of an INTAKE slot; while RESETTING its record is discarded (R89). -/
def completeIntake (s : State) : State :=
  match fetchedSlot s .intake with
  | none => s
  | some (slot, seq, _) =>
    if s.cmd.resetting then finishHead s
    else answerIntake slot seq (.ofWords (headWords s)) (finishHead s)

/-! ## RESULT records (R101, R102) -/

/-- Test 1 of R101. -/
def ResultRecord.badField (r : ResultRecord) : Bool :=
  decide (49 < r.wafer) || decide (31 < r.finalClass) || decide (1 < r.found)

/-- The visit that a RESULT record matches (R101, test 2). -/
def resultVisit (s : State) (r : ResultRecord) : Option Visit :=
  s.visit.current.filter fun v =>
    (v.state == .ready || v.state == .grabbed) && v.wafer == r.wafer && v.defectId == r.defectId

/-- Tests 3 and 4 of R101, with the entry index of the answer. -/
def lateAnswer (s : State) (r : ResultRecord) : AcceptCode × Nat :=
  match s.table.find? fun e => e.wafer == r.wafer && e.defectId == r.defectId && e.state == .timedOut with
  | some e => (.late, e.index)
  | none => (.noVisit, 0)

/-- The result part an accepted RESULT leaves (R102). -/
def ResultRecord.part (r : ResultRecord) : ResultPart := ⟨r.finalClass, r.found == 1, r.offset⟩

/-- An accepted RESULT ends the visit (R102, R103). -/
def takeResult (v : Visit) (r : ResultRecord) (s : State) : State :=
  let s1 := { s with visit := { s.visit with
    lastResult := some ⟨v.entry, r.found == 1, r.finalClass, r.offset, r.quality⟩ } }
  endVisit v (some r.part)
    (closeEntry v (if r.found = 1 then .done else .notFound) (v.state == .ready) (some r.part) s1)

/-- A RESULT record is answered, and ends the visit it matches (R101, R102, R177). -/
def answerResult (slot : Nat) (seq : Byte) (r : ResultRecord) (s : State) : State :=
  if r.badField then acceptRecord slot .badField seq 0 s
  else
    match resultVisit s r with
    | some v => takeResult v r (acceptRecord slot .accepted seq v.entry s)
    | none => acceptRecord slot (lateAnswer s r).1 seq (lateAnswer s r).2 s

/-- Completion of a FETCH of a RESULTS slot; while RESETTING its record is discarded (R114). -/
def completeResult (s : State) : State :=
  match fetchedSlot s .results with
  | none => s
  | some (slot, seq, _) =>
    if s.cmd.resetting then finishHead s
    else answerResult slot seq (.ofWords (headWords s)) (finishHead s)

/-! ## Mark records (R50, R51) -/

/-- Whether the marks held have room for a mark of a role (R50, test 3). -/
def hasRoom (al : Align) (role : Nat) : Bool :=
  if role = 0 then al.primary.isNone
  else if role = 1 then al.secondary.isNone
  else decide (al.checks.length < 2)

/-- The answer to a mark record (R50). -/
def markAnswer (s : State) (r : MarkRecord) : AcceptCode :=
  if 49 < r.wafer ∨ 2 < r.role then .badField
  else
    match waferAt s r.wafer with
    | none => .notAligning
    | some w =>
      if w.align.state = .none ∨ w.aborting then .notAligning
      else if w.align.state = .closeWaiting then .markExcess
      else if hasRoom w.align r.role then .accepted else .markExcess

/-- An accepted mark joins the marks held. -/
def addMark (r : MarkRecord) (al : Align) : Align :=
  if r.role = 0 then { al with primary := some r.mark }
  else if r.role = 1 then { al with secondary := some r.mark }
  else { al with checks := al.checks ++ [r.mark] }

/-- Whether the attempt of a wafer is COLLECTING. -/
def isCollecting (s : State) (i : Nat) : Bool := (waferAt s i).any fun w => w.align.state == .collecting

/-- The last flag closes a COLLECTING attempt, after which the dispatcher tests its conditions (R51, R92). -/
def closeOnLast (r : MarkRecord) (c : AcceptCode) (last : Bool) (s : State) : State :=
  if last && (c == .accepted || c == .markExcess) && isCollecting s r.wafer then
    dispatch (closeAttempt r.wafer s)
  else s

/-- A mark record is answered, and joins the attempt if it is accepted (R50, R51, R177). -/
def answerMark (slot : Nat) (seq : Byte) (last : Bool) (r : MarkRecord) (s : State) : State :=
  let c := markAnswer s r
  let s1 := acceptRecord slot c seq 0 s
  let s2 := if c = .accepted then updWafer r.wafer (fun w => { w with align := addMark r w.align }) s1 else s1
  closeOnLast r c last s2

/-- Completion of a FETCH of a MARKS slot; while RESETTING its record is discarded (R68). -/
def completeMark (s : State) : State :=
  match fetchedSlot s .marks with
  | none => s
  | some (slot, seq, last) =>
    if s.cmd.resetting then finishHead s
    else answerMark slot seq last (.ofWords (headWords s)) (finishHead s)

/-! ## ACCEPT and EVENT jobs (R176, R183) -/

/-- Completion of an ACCEPT job: the slot is held no longer (R176). -/
def completeAccept (s : State) : State :=
  match headKind s with
  | some (.accept slot) =>
    let s1 := finishHead s
    noteWait { s1 with path := { s1.path with held := s1.path.held.filter (· ≠ slot) } }
  | _ => s

/-- Completion of an EVENT job: it leaves the queue (R183). -/
def completeEvent (s : State) : State :=
  match headKind s with
  | some .event => finishHead s
  | _ => s

end Sys2Proof.Machine
end

