-- ==== Sys2Proof/Machine/Writing.lean ====
section
/-! DEFINITION. Completion of REPORT jobs and the queueing of the next one, and the two ends of LOT_START's
layout read (R3 to R5, R87, R157, R158, R160, R184). -/

namespace Sys2Proof.Machine

/-! ## REPORT jobs (R157, R158, R165) -/

/-- A wafer report is written: accumulators discarded, entries freed, request tested (R87, R158). -/
def waferReportWritten (i : Nat) (s : State) : State :=
  let s1 := updWafer i (fun w => { w with acc := none })
    { s with table := s.table.filter fun e => e.wafer != i }
  match waferAt s1 i with
  | none => s1
  | some w => requestTest w.run s1

/-- A lot report is written: the lot ends (R13, R158). -/
def lotReportWritten (run : Nat) (s : State) : State :=
  match lotOfRun s run with
  | none => s
  | some l => endLot l s

/-- The completion of a REPORT job is handed to the unit that waits on it; while RESETTING to none (R158, R165). -/
def handReport (t : ReportTag) (s : State) : State :=
  if s.cmd.resetting then s
  else
    match t with
    | .wafer i => waferReportWritten i s
    | .lot run => lotReportWritten run s
    | .trace _ => { s with focus := { s.focus with traceHanded := false } }

/-- A report counts as written (R158). -/
def reportWritten (r : ReportJob) (t : ReportTag) (s : State) : State :=
  handReport t <| postEvent .reportWritten t.waferField (word t.kind) (word r.start)
    { s with report := { s.report with queue := s.report.queue.tail, producer := r.next, wrap := r.wrap } }

/-- Completion of a REPORT job; the ring header alone posts nothing (R158, R160). -/
def completeReport (s : State) : State :=
  match headKind s with
  | some (.report r) =>
    match r.tag with
    | some t => ringTest (reportWritten r t (finishHead s))
    | none => ringTest (finishHead s)
  | _ => s

/-- The head of the report queue gets its job, or waits for a queue place (R157, R184). -/
def queueReport (s : State) : State :=
  match nextReportJob s with
  | none => s
  | some j => if mayTakePlace s .report then pushJob j (endWait .report s) else beginWait .report s

/-! ## The layout read (R3 to R5, R184) -/

/-- A LOT_START that waits for a queue place takes one (R184). -/
def queueWaitingLayout (s : State) : State :=
  match s.cmd.lotStart with
  | none => s
  | some r => if Producer.layout ∈ s.path.waiters then queueLayoutRead r.a3 s else s

/-- The port that A1 names. -/
def portOfArg (a1 : Word) : Option Port := if a1 = 1 then some .one else if a1 = 2 then some .two else none

/-- The slot map of a port that is ready for a lot (R3, test 3). -/
def readyMap (s : State) (p : Port) : Option (BitVec 25) :=
  let ps := portState s p
  if ps.debounced.present && ps.debounced.opened then ps.slotMap else none

/-- A component in a range, bounds included. -/
def within (lo hi z : Int) : Bool := decide (lo ≤ z) && decide (z ≤ hi)

/-- The layout record is in range (R3, test 4). -/
def layoutValid (a3 : Word) (l : Layout) : Bool :=
  decide (a3.toNat ≤ 15) && within 1000000 60000000 l.pitch.x && within 1000000 60000000 l.pitch.y
    && within (-160000000) 160000000 l.origin.x && within (-160000000) 160000000 l.origin.y

/-- The port and the slot map of a LOT_START that passes, or the code that refuses it (R3). -/
def startTests (s : State) (r : LotRequest) (l : Layout) : Except CommandCode (Port × BitVec 25) :=
  if s.lots.active.isSome && s.lots.second.isSome then .error .lotQueueFull
  else
    match portOfArg r.a1 with
    | none => .error .portNotReady
    | some p =>
      if (lotOnPort s p).isSome then .error .portInUse
      else
        match readyMap s p with
        | none => .error .portNotReady
        | some m => if layoutValid r.a3 l then .ok (p, m) else .error .layoutInvalid

/-- The settings of watch `n` (0 to 3) in the parameter copy (R161, R201). -/
def watchSettings (s : State) (n : Nat) : Watch where
  cls := paramNat s (64 + 5 * n)
  threshold := paramNat s (65 + 5 * n)
  runLength := paramNat s (66 + 5 * n)
  hold := param s (67 + 5 * n) == 1
  enable := param s (68 + 5 * n) == 1

/-- The settings that a lot latches (R4). -/
def latchSettings (s : State) (l : Layout) : Settings where
  quotas := (List.range 16).map fun c => paramNat s (32 + c)
  watches := (List.range 4).map (watchSettings s)
  traceClass := paramNat s 48
  traceMask := paramNat s 49
  traceMismatch := param s 50 == 1
  traceEnable := param s 51 == 1
  layout := l

/-- A wafer record as LOT_START creates it (R5, R48, R69). -/
def freshWafer (run : Nat) (number : Word) : Wafer where
  run := run
  lotNumber := number
  location := .slot
  phase := .skipped
  outcome := none
  prealign := none
  align := .fresh
  transform := none
  drift := .zero
  acc := none
  aborting := false
  nextArrival := 0
  classUse := List.replicate 16 0
  reviewEnd := false

/-- The record of a slot: selected and present, not selected, or selected and absent (R5). -/
def createdWafer (run : Nat) (number : Word) (selected present : Bool) : Wafer :=
  let w := freshWafer run number
  if !selected then { w with outcome := some .notSelected }
  else if present then { w with phase := .waiting, acc := some .zero }
  else { w with outcome := some .slotEmpty }

/-- The 25 records of a port (R5). -/
def createWafers (p : Port) (run : Nat) (number : Word) (selection map : BitVec 25) (ws : List (Option Wafer)) :
    List (Option Wafer) :=
  ws.mapIdx fun i o =>
    if homePort i = p then
      some (createdWafer run number (selection.getLsbD (i % 25)) (map.getLsbD (i % 25)))
    else o

/-- The lot that a LOT_START creates (R4, R152). -/
def newLot (s : State) (r : LotRequest) (p : Port) (l : Layout) : Lot where
  run := s.nextRun
  number := r.a0
  port := some p
  selection := r.a2.setWidth 25
  layoutIndex := some r.a3.toNat
  state := if s.lots.active.isNone then .active else .pending
  settings := some (latchSettings s l)
  reportRequested := false
  acc := some .zero

/-- A lot takes the active position if it is empty, and the pending one otherwise (R4). -/
def placeLot (l : Lot) (q : LotQueue) : LotQueue := if q.active.isNone then ⟨some l, q.second⟩ else ⟨q.active, some l⟩

/-- A LOT_START is accepted (R4, R5), and the closing condition is tested (R12). -/
def acceptLot (r : LotRequest) (p : Port) (m : BitVec 25) (l : Layout) (s : State) : State :=
  let lot := newLot s r p l
  let s1 := { s with
    lots := placeLot lot s.lots
    wafers := createWafers p lot.run lot.number lot.selection m s.wafers
    nextRun := s.nextRun + 1 }
  closingTest lot.run
    (wantPlan (answer .accepted (postEvent .lotStarted none lot.number (word (portNumber p)) s1)))

/-- The LOT_START in progress ends with a refusal or an acceptance (R3). -/
def decideStart (r : LotRequest) (l : Layout) (s : State) : State :=
  if s.path.draining || s.path.reloadPending then answer .noMap s
  else
    match startTests s r l with
    | .error c => answer c s
    | .ok (p, m) => acceptLot r p m l s

/-- No LOT_START is in progress any more. -/
def closeLotStart (s : State) : State := { s with cmd := { s.cmd with lotStart := none } }

/-- Completion of the layout read; a LOT_START that a soft reset abandoned gets no test (R3, R190). -/
def completeLayout (s : State) : State :=
  match headKind s with
  | some .layout =>
    match s.cmd.lotStart with
    | none => finishHead s
    | some r => decideStart r (.ofWords (headWords s)) (closeLotStart (finishHead s))
  | _ => s

end Sys2Proof.Machine
end

