-- ==== Sys2Proof/Machine/Loading.lean ====
section
/-! DEFINITION. LOADING: its beginning, the test of a zone map, its end in MAPPED or TRANSPARENT, and the
completion of a soft reset (R19, R47, R160, R168, R170 to R173, R199, R202, R203). -/

namespace Sys2Proof.Machine

/-! ## The beginning of LOADING (R170, R172, R173) -/

/-- What LOADING waits for has happened: the job queue is drained, and in a soft reset no order is in flight. A
LOT_START that still waits for a queue place is drained too (R172, R173, R184). -/
def loadingDue (s : State) : Bool :=
  s.path.mode != .loading && s.path.jobs.isEmpty && !(s.path.waiters.contains .layout)
    && (s.path.draining || (s.cmd.resetting && s.handling.order.isNone))

/-- LOADING begins (R170). -/
def beginLoading (s : State) : State :=
  { s with path := { s.path with
      mode := .loading, drops := List.replicate 8 0, reported := List.replicate 8 false, lastDrop := none
      reloadPending := false, draining := false, upBurst := .none, jobs := [mapBlockJob, paramAreaJob] } }

/-! ## The tests of a map (R168) -/

def Zone.isUsed (z : Zone) : Bool := z.kind != .unused

/-- Two zones share a byte. -/
def Zone.overlaps (z y : Zone) : Bool := decide (z.base < y.stop) && decide (y.base < z.stop)

/-- The kinds that only one descriptor may use. -/
def ZoneKind.isSingle : ZoneKind → Bool
  | .intake | .results | .marks | .layout | .events | .reports => true
  | .unused | .guarded => false

/-- Descriptor `i` of a map. -/
def descriptor (zs : List Zone) (i : Nat) : Zone := zs.getD i Zone.unused

/-- The lowest descriptor that is used and fails a test. -/
def firstFailing (zs : List Zone) (p : Nat → Zone → Bool) : Option Nat :=
  (List.range 8).find? fun i => (descriptor zs i).isUsed && p i (descriptor zs i)

/-- Whether some descriptor before `i` is used and stands in a relation to it. -/
def someBefore (zs : List Zone) (i : Nat) (rel : Zone → Zone → Bool) : Bool :=
  (List.range i).any fun j => (descriptor zs j).isUsed && rel (descriptor zs j) (descriptor zs i)

/-- Test 1: the zone count. -/
def countFails (count : Nat) (zs : List Zone) : Bool :=
  decide (8 < count) || count != (zs.countP Zone.isUsed)

def fieldFails (_ : Nat) (z : Zone) : Bool := z.pages == 0 || decide (1024 < z.pages)

def reachFails (_ : Nat) (z : Zone) : Bool := decide (Config.pageBase < z.stop)

def overlapFails (zs : List Zone) (i : Nat) (_ : Zone) : Bool := someBefore zs i Zone.overlaps

def duplicateFails (zs : List Zone) (i : Nat) (z : Zone) : Bool :=
  z.kind.isSingle && someBefore zs i fun x y => x.kind == y.kind

/-- Reason and descriptor of the first failing test, or none for a valid map (R168). -/
def mapFault (count : Nat) (zs : List Zone) : Option (Nat × Nat) :=
  if countFails count zs then some (1, 0)
  else
    ((firstFailing zs fieldFails).map fun i => (2, i)).or <|
      ((firstFailing zs reachFails).map fun i => (3, i)).or <|
        ((firstFailing zs (overlapFails zs)).map fun i => (4, i)).or <|
          (firstFailing zs (duplicateFails zs)).map fun i => (5, i)

/-! ## The parameter copy (R170, step 1; R202, R203) -/

/-- A bound has another value in force than before, or was not in force at all (R123, R137). -/
def boundsChanged (s s1 : State) : Bool :=
  !s.cmd.paramsValid || param s 16 != param s1 16 || param s 17 != param s1 17

/-- The parameter copy is made from the 128 words read. -/
def copyParams (ws : List Word) (s : State) : State :=
  let s1 := { s with cmd := { s.cmd with paramRaw := (List.range 128).map (nth ws), paramsValid := true } }
  if boundsChanged s s1 then reclampOutput s1 else s1

/-- PARAM_CLAMPED for each word out of range, in word order (R203). -/
def clampEvents (s : State) : State :=
  (List.range 128).foldl (fun s n => clampEvent n (s.cmd.paramRaw.getD n 0) s) s

/-! ## The end of LOADING (R170) -/

/-- The zone of a kind in a map, whatever the mode. -/
def zoneIn (zs : List Zone) (k : ZoneKind) : Option Zone := zs.find? fun z => z.kind == k

/-- A zone of a kind has the same base and page count in two maps (R160, R199). -/
def sameZone (old new : List Zone) (k : ZoneKind) : Bool :=
  match zoneIn old k, zoneIn new k with
  | some y, some z => y.page == z.page && y.pages == z.pages
  | _, _ => false

/-- The REPORT job that writes the ring header alone (R160). -/
def headerJob (z : Zone) : Job := ⟨.report ⟨0, 0, 0, none⟩, burstsOf z.base (ringHeader 0 false 0), []⟩

/-- The report ring is moved: its side is 0, and its header is written (R160). -/
def moveReportRing (zs : List Zone) (s : State) : State :=
  let s1 := { s with report := { s.report with producer := 0, wrap := 0, consumer := 0 } }
  match zoneIn zs .reports with
  | none => s1
  | some z => pushJob (headerJob z) s1

/-- The report unit's producer side under a new map (R160). -/
def setReportSide (old zs : List Zone) (s : State) : State :=
  if sameZone old zs .reports then s else moveReportRing zs s

/-- The command unit's event ring side under a new map (R199). -/
def setEventSide (old zs : List Zone) (s : State) : State :=
  if sameZone old zs .events then s
  else { s with cmd := { s.cmd with evNext := 0, evWrap := 0, evConsumer := 0 } }

/-- The mode and the zones in force after LOADING. -/
def setMap (m : PathMode) (zs : List Zone) (s : State) : State :=
  { s with path := { s.path with mode := m, zones := zs } }

/-- A valid map goes in force (R170, step 3). -/
def mapLoaded (ws : List Word) (zs : List Zone) (s : State) : State :=
  postEvent .mapReloaded none (word (headerGeneration ws)) (word (headerCount ws))
    (setEventSide s.path.zones zs (setReportSide s.path.zones zs (setMap .mapped zs s)))

/-- An invalid map leaves the path TRANSPARENT (R170, step 4). -/
def mapRejected (reason i : Nat) (s : State) : State :=
  postEvent .mapInvalid none (word reason) (word i) (setMap .transparent [] s)

/-- The map read is tested, and the mode follows (R168, R170). -/
def applyMap (ws : List Word) (s : State) : State :=
  match mapFault (headerCount ws) (zonesOfWords ws) with
  | none => mapLoaded ws (zonesOfWords ws) s
  | some (reason, i) => mapRejected reason i s

/-! ## The completion of a soft reset (R19, R47, R173) -/

/-- A wafer record kept for lot 0 (R19, R89). -/
def keptWafer (run : Nat) (w : Wafer) : Wafer :=
  { freshWafer run 0 with location := w.location, phase := .reviewDone, outcome := some .aborted }

/-- The records out of their slots are kept, the others freed (R19). -/
def keepRecord (run : Nat) (o : Option Wafer) : Option Wafer :=
  (o.filter fun w => w.location != .slot).map (keptWafer run)

/-- Lot 0 (R19). -/
def lotZero (run : Nat) : Lot where
  run := run
  number := 0
  port := none
  selection := 0
  layoutIndex := none
  state := .aborting
  settings := none
  reportRequested := false
  acc := none

/-- Lot 0 is built from the wafers out of their slots; with none, the lot queue is empty (R19, R20). -/
def buildLotZero (s : State) : State :=
  let kept := s.wafers.map (keepRecord s.nextRun)
  if kept.any Option.isSome then
    closingTest s.nextRun
      { s with wafers := kept, lots := ⟨some (lotZero s.nextRun), none⟩, nextRun := s.nextRun + 1 }
  else { s with wafers := kept, lots := ⟨none, none⟩ }

/-- Handling after a soft reset: HALTED while a record is UNKNOWN, else IDLE with a planner run (R47). -/
def settleHandling (s : State) : State :=
  let s1 := { s with handling := { s.handling with prealign := none, removals := [] } }
  if anyUnknown s1 then setHandling .halted s1 else idleHandling s1

/-- The soft reset completes (R191). -/
def completeReset (s : State) : State :=
  let s1 := { s with cmd := { s.cmd with resetting := false }, path := { s.path with held := [] } }
  settleHandling (buildLotZero s1)

/-! ## LOADMAP completion -/

/-- The two LOADMAP jobs stand at the head of the queue of a path in LOADING (R170). -/
def loadmapsAtHead (s : State) : Bool :=
  s.path.mode == .loading && (s.path.jobs.take 2).map (·.kind) == [JobKind.mapBlock, JobKind.paramArea]

/-- The words of the map block and of the parameter area, as the two jobs read them. -/
def mapWords (s : State) : List Word := headWords s
def paramWords (s : State) : List Word := headWords (finishHead s)

/-- LOADING ends: both jobs complete, the copy is made, the map tested, the clamps reported (R170), and a soft
reset that led here completes (R173). -/
def endLoading (s : State) : State :=
  let s1 := clampEvents (applyMap (mapWords s) (copyParams (paramWords s) (finishHead (finishHead s))))
  noteWait (if s1.cmd.resetting then completeReset s1 else s1)

def completeLoading (s : State) : State := if loadmapsAtHead s then endLoading s else s

end Sys2Proof.Machine
end

