-- ==== Sys2Proof/Machine/JobRows.lean ====
section
/-! DEFINITION. The rows of the job queue: completions, and the steps of producers that wait. A row whose job is not
at the head, or whose producer has nothing to ask, changes nothing (log 5). -/

namespace Sys2Proof.Machine

/-- INTAKE_RECORD (R72). -/
def execIntakeRecord (s : State) : Host.Outcome State Fault Refusal :=
  .next (finish (completeIntake s))

/-- RESULT_RECORD (R101). -/
def execResultRecord (s : State) : Host.Outcome State Fault Refusal :=
  .next (finish (completeResult s))

/-- MARK_RECORD (R50). -/
def execMarkRecord (s : State) : Host.Outcome State Fault Refusal :=
  .next (finish (completeMark s))

/-- ACCEPT_JOB_COMPLETE (R176). -/
def execAcceptJobComplete (s : State) : Host.Outcome State Fault Refusal :=
  .next (finish (completeAccept s))

/-- EVENT_JOB_COMPLETE (R183). -/
def execEventJobComplete (s : State) : Host.Outcome State Fault Refusal :=
  .next (finish (completeEvent s))

/-- REPORT_JOB_COMPLETE (R158). -/
def execReportJobComplete (s : State) : Host.Outcome State Fault Refusal :=
  .next (finish (completeReport s))

/-- LAYOUT_READ_COMPLETE (R3). -/
def execLayoutReadComplete (s : State) : Host.Outcome State Fault Refusal :=
  .next (finish (completeLayout s))

/-- LOADMAP_COMPLETE (R170). -/
def execLoadmapComplete (s : State) : Host.Outcome State Fault Refusal :=
  .next (finish (completeLoading s))

/-- LOADING_BEGIN (R170, R172, R173). -/
def execLoadingBegin (s : State) : Host.Outcome State Fault Refusal :=
  .next (finish (if loadingDue s then beginLoading s else s))

/-- REPORT_JOB_QUEUED (R157). -/
def execReportJobQueued (s : State) : Host.Outcome State Fault Refusal :=
  .next (finish (queueReport s))

/-- LAYOUT_READ_QUEUED (R184). -/
def execLayoutReadQueued (s : State) : Host.Outcome State Fault Refusal :=
  .next (finish (queueWaitingLayout s))

end Sys2Proof.Machine
end

