-- ==== Sys2Proof/Machine/Stage.lean ====
section
/-! DEFINITION. The stage link, the grab strobe and the visit timers (R94 to R100, R104, R106, R107), and the
millisecond counter with the timers that run on it (R192). -/

namespace Sys2Proof.Machine

/-! ## Messages of the stage (R94, R96, R106, R107) -/

/-- POSITION replaces the latest stage position (R94). -/
def takePosition (p : Point) (s : State) : State := { s with visit := { s.visit with position := some p } }

/-- The tag is that of the stage move in flight. -/
def tagInFlight (s : State) (tag : BitVec 8) : Bool := s.visit.move.any fun m => m.1 == tag

/-- The visit in flight, where it is MOVING. -/
def movingVisit (s : State) : Option Visit := s.visit.current.filter fun v => v.state == .moving

/-- The stage move in flight ends. -/
def endMove (s : State) : State := { s with visit := { s.visit with move := none } }

/-- A visit whose move has arrived enters SETTLING, and the focus test is made at once (R96). -/
def enterSettling (v : Visit) (p : Point) (s : State) : State :=
  settleTest (setVisit { v with state := .settling, arrival := some p, timer := paramNat s 8 } (endMove s))

/-- ARRIVED (R96). -/
def takeArrived (tag : BitVec 8) (p : Point) (s : State) : State :=
  match movingVisit s with
  | none => s
  | some v => if tagInFlight s tag then enterSettling v p s else s

/-- STAGE joins the hold set. -/
def holdStage (s : State) : State :=
  { s with visit := { s.visit with hold := { s.visit.hold with stage := true } } }

/-- STAGE_FAULT: cause, tag in the lower half and code in the upper half of argument B (R106, R107, R200). -/
def stageFaultEvent (wafer : Option Nat) (cause : Nat) (tag : BitVec 8) (code : BitVec 16) (s : State) : State :=
  postEvent .stageFault wafer (word cause) (word (put tag.toNat 0 16 + put code.toNat 16 16)) s

/-- A FAULT that ends the move of the visit in flight (R106). -/
def faultOfMove (v : Visit) (tag : BitVec 8) (code : BitVec 16) (s : State) : State :=
  spoilVisit v (stageFaultEvent (some v.wafer) 1 tag code (endMove s))

/-- What a FAULT without its move does to the visit in flight (R107). -/
def strayFaultVisit (s : State) : State :=
  match s.visit.current with
  | none => s
  | some v =>
    match v.state with
    | .moving => s
    | .settling => spoilVisit v s
    | .ready => spoilVisit v s
    | .grabbed => s

/-- A FAULT of a standing stage, or of a move already ended (R107). -/
def strayFault (tag : BitVec 8) (code : BitVec 16) (s : State) : State :=
  strayFaultVisit (stageFaultEvent (stageWafer s) 3 tag code s)

/-- FAULT (R106, R107). -/
def takeFault (tag : BitVec 8) (code : BitVec 16) (s : State) : State :=
  let s1 := holdStage { s with visit := { s.visit with faultCode := code } }
  match movingVisit s1 with
  | none => strayFault tag code s1
  | some v => if tagInFlight s1 tag then faultOfMove v tag code s1 else strayFault tag code s1

/-! ## The grab strobe (R100) -/

/-- The position that a strobe captures: the latest, or with none yet the arrival position. -/
def capturedAt (s : State) (v : Visit) : Option Point := s.visit.position.or v.arrival

/-- A rising edge on the grab strobe line (R100, R127). -/
def takeStrobe (s : State) : State :=
  match s.visit.current with
  | none => s
  | some v =>
    if v.state = .ready then
      setVisit { v with state := .grabbed, captured := capturedAt s v,
                        lockedAtStrobe := s.focus.state == .locked } (recordStrobe s)
    else s

/-! ## Visit timers (R98, R104, R106) -/

/-- The visit in flight whose timer has run out in one of some states. -/
def expiredVisit (s : State) (p : VisitState → Bool) : Option Visit :=
  s.visit.current.filter fun v => p v.state && v.timer == 0

def inMoving (v : VisitState) : Bool := v == .moving
def inSettling (v : VisitState) : Bool := v == .settling
def awaitsResult (v : VisitState) : Bool := v == .ready || v == .grabbed

/-- Expiry of the move timer (R106). -/
def expireMove (s : State) : State :=
  match expiredVisit s inMoving with
  | none => s
  | some v => spoilVisit v (stageFaultEvent (some v.wafer) 2 v.moveTag 0 (holdStage (haltMove s)))

/-- The settle timer degrades to predicted focus in HOLDOVER or LOST, with a measured source (R98). -/
def degrades (s : State) (v : Visit) : Bool :=
  (s.focus.state == .holdover || s.focus.state == .lost) && (v.source == .nearest || v.source == .mapMean)

/-- Expiry of the settle timer (R98). -/
def expireSettle (s : State) : State :=
  match expiredVisit s inSettling with
  | none => s
  | some v => if degrades s v then enterReady v true s else failVisit v .focusFailed s

/-- Expiry of the result timer (R104). -/
def expireResult (s : State) : State :=
  match expiredVisit s awaitsResult with
  | none => s
  | some v => failVisit v .timedOut (timedOutEvent v 1 s)

/-! ## The millisecond counter (R192) -/

def tickOrder (o : Order) : Order := { o with timer := o.timer - 1 }
def tickPort (p : PortState) : PortState := { p with timer := p.timer.map (· - 1) }
def tickVisit (v : Visit) : Visit := { v with timer := v.timer - 1 }

/-- The counter advances by one millisecond, and with it every timer that runs (R192). -/
def tick (s : State) : State :=
  { s with
    cmd := { s.cmd with ms := s.cmd.ms + 1 }
    handling := { s.handling with
      order := s.handling.order.map tickOrder
      prealign := s.handling.prealign.map fun p => (p.1, p.2 - 1)
      port1 := tickPort s.handling.port1
      port2 := tickPort s.handling.port2 }
    visit := { s.visit with current := s.visit.current.map tickVisit } }

/-! ## Power-on and line reset (R171) -/

/-- The whole part takes its reset state; the SRAM below it, what has gone out on the links, the commands
waiting outside, and the model's count of free choices are not the part's to reset. -/
def resetPart (cause : ResetCause) (s : State) : State :=
  { State.reset with
    mem := s.mem, out := s.out, pending := s.pending, reads := s.reads, choices := s.choices
    cmd := { State.reset.cmd with resetCause := cause } }

end Sys2Proof.Machine
end

