-- ==== Sys2Proof/Machine/LinkRows.lean ====
section
/-! DEFINITION. The rows of the handler, stage and focus links and of the strobe line. A message that its rule
ignores changes nothing. -/

namespace Sys2Proof.Machine

/-- DONE (R23 to R28). -/
def execDone (tag : BitVec 8) (result : DoneResult) (s : State) : Host.Outcome State Fault Refusal :=
  .next (finish (takeDone tag result s))

/-- PREALIGNED (R33). -/
def execPrealigned (wafer : BitVec 8) (notch : Word) (offsetX offsetY : BitVec 16) (s : State) : Host.Outcome State Fault Refusal :=
  .next (finish (takePrealigned wafer.toNat ⟨notch, offsetX, offsetY⟩ s))

/-- PREALIGN_FAIL (R34). -/
def execPrealignFail (wafer : BitVec 8) (s : State) : Host.Outcome State Fault Refusal :=
  .next (finish (takePrealignFail wafer.toNat s))

/-- SLOTMAP (R42). -/
def execSlotmap (p : Port) (flags : BitVec 25) (s : State) : Host.Outcome State Fault Refusal :=
  .next (finish (takeSlotmap p flags s))

/-- PORT (R41). -/
def execPort (p : Port) (present opened : Bool) (s : State) : Host.Outcome State Fault Refusal :=
  .next (finish (takePort p present opened s))

/-- ARRIVED (R96). -/
def execArrived (tag : BitVec 8) (x y : Word) (s : State) : Host.Outcome State Fault Refusal :=
  .next (finish (takeArrived tag (.ofWords x y) s))

/-- FAULT (R106, R107). -/
def execFault (tag : BitVec 8) (code : BitVec 16) (s : State) : Host.Outcome State Fault Refusal :=
  .next (finish (takeFault tag code s))

/-- POSITION (R94). -/
def execPosition (x y : Word) (s : State) : Host.Outcome State Fault Refusal :=
  .next (finish (takePosition (.ofWords x y) s))

/-- SAMPLE (R115, R140). -/
def execSample (z : Word) (quality : BitVec 8) (s : State) : Host.Outcome State Fault Refusal :=
  .next (finish (takeSample z quality s))

/-- GRAB_STROBE (R100). -/
def execGrabStrobe (s : State) : Host.Outcome State Fault Refusal :=
  .next (finish (takeStrobe s))

end Sys2Proof.Machine
end

