-- ==== Sys2Proof/Machine/ResetRows.lean ====
section
/-! DEFINITION. The rows POWER_ON and LINE_RESET (R171). -/

namespace Sys2Proof.Machine

/-- POWER_ON (R171): every unit takes its power-on state and the path enters LOADING. -/
def execPowerOn (s : State) : Host.Outcome State Fault Refusal :=
  .next (resetPart .power s)

/-- LINE_RESET (R171): as at power-on, but for the reset cause. -/
def execLineReset (s : State) : Host.Outcome State Fault Refusal :=
  .next (resetPart .line s)

end Sys2Proof.Machine
end

