-- ==== Sys2Proof/Machine/TimerRows.lean ====
section
/-! DEFINITION. The rows of the timers and of the clock. An expiry acts only when its timer has run out (R192, log
6). -/

namespace Sys2Proof.Machine

/-- ORDER_TIMER_EXPIRY (R27). -/
def execOrderTimerExpiry (s : State) : Host.Outcome State Fault Refusal :=
  .next (finish (expireOrder s))

/-- PREALIGN_TIMER_EXPIRY (R34). -/
def execPrealignTimerExpiry (s : State) : Host.Outcome State Fault Refusal :=
  .next (finish (expirePrealign s))

/-- DEBOUNCE_TIMER_EXPIRY (R41). -/
def execDebounceTimerExpiry (p : Port) (s : State) : Host.Outcome State Fault Refusal :=
  .next (finish (expireDebounce p s))

/-- MOVE_TIMER_EXPIRY (R106). -/
def execMoveTimerExpiry (s : State) : Host.Outcome State Fault Refusal :=
  .next (finish (expireMove s))

/-- SETTLE_TIMER_EXPIRY (R98). -/
def execSettleTimerExpiry (s : State) : Host.Outcome State Fault Refusal :=
  .next (finish (expireSettle s))

/-- RESULT_TIMER_EXPIRY (R104). -/
def execResultTimerExpiry (s : State) : Host.Outcome State Fault Refusal :=
  .next (finish (expireResult s))

/-- MILLISECOND_TICK (R192). -/
def execMillisecondTick (s : State) : Host.Outcome State Fault Refusal :=
  .next (finish (tick s))

end Sys2Proof.Machine
end

