-- ==== Sys2Proof/Machine/Dispatch.lean ====
section
/-! DEFINITION. The meaning of every row: one arm for each constructor of `Instr`, in the table's order. -/

namespace Sys2Proof.Machine

def exec (i : Instr) (s : State) : Host.Outcome State Fault Refusal :=
  match i with
  | .powerOn => Sys2Proof.Machine.execPowerOn s
  | .lineReset => Sys2Proof.Machine.execLineReset s
  | .lotStart w => Sys2Proof.Machine.execLotStart w s
  | .lotHold w => Sys2Proof.Machine.execLotHold w s
  | .lotRelease w => Sys2Proof.Machine.execLotRelease w s
  | .lotAbort w => Sys2Proof.Machine.execLotAbort w s
  | .waferAbort w => Sys2Proof.Machine.execWaferAbort w s
  | .reviewEnd w => Sys2Proof.Machine.execReviewEnd w s
  | .reviewSuspend w => Sys2Proof.Machine.execReviewSuspend w s
  | .reviewResume w => Sys2Proof.Machine.execReviewResume w s
  | .realign w => Sys2Proof.Machine.execRealign w s
  | .guardClear w => Sys2Proof.Machine.execGuardClear w s
  | .recoverWafer w => Sys2Proof.Machine.execRecoverWafer w s
  | .mapReload w => Sys2Proof.Machine.execMapReload w s
  | .softReset w => Sys2Proof.Machine.execSoftReset w s
  | .unknownCommand value w => Sys2Proof.Machine.execUnknownCommand value w s
  | .mapHeaderWrite w => Sys2Proof.Machine.execMapHeaderWrite w s
  | .argumentCellWrite cell w => Sys2Proof.Machine.execArgumentCellWrite cell w s
  | .attentionMaskWrite w => Sys2Proof.Machine.execAttentionMaskWrite w s
  | .eventConsumerIndexWrite w => Sys2Proof.Machine.execEventConsumerIndexWrite w s
  | .reportConsumerIndexWrite w => Sys2Proof.Machine.execReportConsumerIndexWrite w s
  | .windowSelectWrite w => Sys2Proof.Machine.execWindowSelectWrite w s
  | .parameterWrite n w => Sys2Proof.Machine.execParameterWrite n w s
  | .upstreamWrite index w => Sys2Proof.Machine.execUpstreamWrite index w s
  | .posting index w => Sys2Proof.Machine.execPosting index w s
  | .burstResume => Sys2Proof.Machine.execBurstResume s
  | .causeCellRead b => Sys2Proof.Machine.execCauseCellRead b s
  | .intakeRecord => Sys2Proof.Machine.execIntakeRecord s
  | .resultRecord => Sys2Proof.Machine.execResultRecord s
  | .markRecord => Sys2Proof.Machine.execMarkRecord s
  | .acceptJobComplete => Sys2Proof.Machine.execAcceptJobComplete s
  | .eventJobComplete => Sys2Proof.Machine.execEventJobComplete s
  | .reportJobComplete => Sys2Proof.Machine.execReportJobComplete s
  | .layoutReadComplete => Sys2Proof.Machine.execLayoutReadComplete s
  | .loadmapComplete => Sys2Proof.Machine.execLoadmapComplete s
  | .loadingBegin => Sys2Proof.Machine.execLoadingBegin s
  | .reportJobQueued => Sys2Proof.Machine.execReportJobQueued s
  | .layoutReadQueued => Sys2Proof.Machine.execLayoutReadQueued s
  | .done tag result => Sys2Proof.Machine.execDone tag result s
  | .prealigned wafer notch offsetX offsetY => Sys2Proof.Machine.execPrealigned wafer notch offsetX offsetY s
  | .prealignFail wafer => Sys2Proof.Machine.execPrealignFail wafer s
  | .slotmap p flags => Sys2Proof.Machine.execSlotmap p flags s
  | .port p present opened => Sys2Proof.Machine.execPort p present opened s
  | .arrived tag x y => Sys2Proof.Machine.execArrived tag x y s
  | .fault tag code => Sys2Proof.Machine.execFault tag code s
  | .position x y => Sys2Proof.Machine.execPosition x y s
  | .sample z quality => Sys2Proof.Machine.execSample z quality s
  | .grabStrobe => Sys2Proof.Machine.execGrabStrobe s
  | .orderTimerExpiry => Sys2Proof.Machine.execOrderTimerExpiry s
  | .prealignTimerExpiry => Sys2Proof.Machine.execPrealignTimerExpiry s
  | .debounceTimerExpiry p => Sys2Proof.Machine.execDebounceTimerExpiry p s
  | .moveTimerExpiry => Sys2Proof.Machine.execMoveTimerExpiry s
  | .settleTimerExpiry => Sys2Proof.Machine.execSettleTimerExpiry s
  | .resultTimerExpiry => Sys2Proof.Machine.execResultTimerExpiry s
  | .millisecondTick => Sys2Proof.Machine.execMillisecondTick s

end Sys2Proof.Machine
end

