-- ==== Sys2Proof/Machine/Step.lean ====
section
/-! DEFINITION. One step: the command at the front of the queue is taken (log 25), and with none waiting a
read burst that was sent (log 34), or else the downstream bus runs a burst of the head job (log 4). -/

namespace Sys2Proof.Machine

/-- The commands that wait are replaced. -/
def State.withPending (s : State) (l : List Instr) : State := { s with pending := l }

/-- One step of the part. -/
def step (s : State) : Host.Outcome State Fault Refusal :=
  match s.pending with
  | [] => .next (idleStep s)
  | c :: rest => exec c (s.withPending rest)

/-- The command that a word spells by the table's bits, put at the front of the queue; no word of this table
spells one, and the state is then unchanged (log 25). -/
def State.withFetchWord (s : State) (nbits w : Nat) : State :=
  match decodeTableWord nbits w with
  | none => s
  | some c => s.withPending (c :: s.pending)

end Sys2Proof.Machine
end

