-- ==== Sys2Proof/Safety.lean ====
section
/-! DEFINITION. What a good state is, in the terms that statements use: the invariants of the part, and the
conditions under which an upstream word is served at once and a command is carried out. -/

namespace Sys2Proof.Machine

/-! ## Invariants -/

/-- The job queue holds at most 16 jobs (R183). -/
def QueueBounded (s : State) : Prop := depth s ≤ 16

/-- Review memory keeps its one form (INVENTORY.md, Memory and ordering). -/
def MemoryCanonical (s : State) : Prop := Memory.wf s.mem = true

/-- The wafer table has 50 places (R14). -/
def TableOfWafers (s : State) : Prop := s.wafers.length = 50

/-- A place, a wafer and a defect id of the revisit table. -/
def Entry.key (e : Entry) : Nat × Nat × Word := (e.index, e.wafer, e.defectId)

/-- The revisit table holds at most 2,048 entries, at most 1,024 of one wafer, no two in one place, and no two
with the same wafer index and defect id (R69). -/
structure RevisitTable (s : State) : Prop where
  inPlaces : s.table.length ≤ 2048
  perWafer : ∀ i, entriesHeld s i ≤ 1024
  places : (s.table.map (·.index)).Pairwise (· < ·)
  ids : (s.table.map fun e => (e.wafer, e.defectId)).Nodup

/-- No planner run is left due between steps (log 9). -/
def NoRunDue (s : State) : Prop := s.handling.runDue = false

/-- No zone in force reaches the configuration page, and no slot of it is held (R166, R168). -/
structure PageClear (s : State) : Prop where
  zones : ∀ z ∈ s.path.zones, z.kind ≠ .unused → z.stop ≤ 0xFFF000
  held : ∀ a ∈ s.path.held, a < 0xFFF000

/-- The command unit keeps a copy of each of the 6 argument cells and of the 128 parameter words (R166, R202). -/
def CopiesComplete (s : State) : Prop := s.cmd.args.length = 6 ∧ s.cmd.paramRaw.length = 128

/-- The invariant that every step keeps. -/
structure GoodState (s : State) : Prop where
  queue : QueueBounded s
  memory : MemoryCanonical s
  wafers : TableOfWafers s
  table : RevisitTable s
  page : PageClear s
  copies : CopiesComplete s
  noRunDue : NoRunDue s

/-! ## Conditions of a service -/

/-- An upstream word that comes now does not wait, unless its slot is held (R169, R172, R176, R184, R185). -/
structure BusFree (s : State) : Prop where
  noneWaits : s.path.upWait = []
  notLoading : s.path.mode ≠ .loading
  notDraining : s.path.draining = false
  noProducer : s.path.waiters = []
  shallow : depth s < 12

/-- A write to a cell of the configuration page is served at once, in MAPPED or in TRANSPARENT. -/
structure PageOpen (s : State) : Prop where
  bus : BusFree s
  page : PageClear s

/-- A write to a cell of the configuration page is served at once, by a MAPPED path. -/
structure CellsOpen (s : State) : Prop where
  opened : PageOpen s
  mapped : s.path.mode = .mapped

/-- A command passes the tests of R188, and finds no planner run due. -/
structure TakesCommands (s : State) : Prop where
  opened : PageOpen s
  mapped : s.path.mode = .mapped
  notResetting : s.cmd.resetting = false
  noLotStart : s.cmd.lotStart = none
  noRunDue : NoRunDue s

/-- The row of the write that brings a command value (R188). -/
def commandRow (value : BitVec 8) (w : CommandWrite) : Instr :=
  match value.toNat with
  | 1 => .lotStart w
  | 2 => .lotHold w
  | 3 => .lotRelease w
  | 4 => .lotAbort w
  | 5 => .waferAbort w
  | 6 => .reviewEnd w
  | 7 => .reviewSuspend w
  | 8 => .reviewResume w
  | 9 => .realign w
  | 10 => .guardClear w
  | 11 => .recoverWafer w
  | 12 => .mapReload w
  | 13 => .softReset w
  | _ => .unknownCommand value w

/-- The state in which a command acts: its word is forwarded to memory, the command is counted and its value
shown, and its burst has the bus while more words of it follow (R166, R182, R188, R189). -/
def commandSeen (value : BitVec 8) (w : CommandWrite) (s : State) : State :=
  { s with
    mem := writeWord s.mem 0xFFF100 (w.upper ++ value : BitVec (24 + 8)) (w.lanes ++ 1#1 : BitVec (3 + 1))
    path := { s.path with upBurst := if w.more then .carried else .none }
    cmd := { s.cmd with count := s.cmd.count + 1, echoed := value } }

/-- The state in which a cell's write acts: its word is forwarded to memory (R166, R182). -/
def cellSeen (offset : Nat) (w : WordWrite) (s : State) : State :=
  { s with
    mem := writeWord s.mem (0xFFF000 + offset) w.data w.lanes
    path := { s.path with upBurst := if w.more then .carried else .none } }

end Sys2Proof.Machine
end

