-- ==== Sys2Proof/Certificates/Slice0/Obligations.lean ====
section
/-! DEFINITION. The statements for the provers. A statement of a row gives the whole next state where the rules
give it: `commandSeen` and `cellSeen` (Safety) are the state with the word forwarded to memory, and an update
leaves every field that it does not name. `finish` is the planner run that ends a step, `postEvent` the posting
of an event; each has a statement of its own. -/

open Sys2Proof Sys2Proof.Machine

/-! ## The part as a whole -/

/-- The command at the front of the queue is taken, with the rest left to wait. That commands wait in a queue is the
model's choice (log 25). -/
def Obligations.StepTakesTheFront : Prop :=
  ∀ (c : Instr) (rest : List Instr) (s : State),
    step { s with pending := c :: rest } = exec c { s with pending := rest }

/-- The values after power-on that a rule gives (R1, R46, R88, R90, R91, R94, R113, R117, R126, R130, R137, R139, R164,
R166, R171, R179, R181, R183, R189, R192 to R196, R199). The two jobs queued are those of the LOADING that R171 begins
(R170). That no parameter copy has been made shows in a flag of the model's own (log 3). -/
def Obligations.ResetValues : Prop :=
  let r := State.reset
  r.path.mode = .loading ∧ r.path.jobs = [mapBlockJob, paramAreaJob] ∧ r.path.held = [] ∧ r.path.zones = [] ∧
  r.path.drops = List.replicate 8 0 ∧ r.path.reported = List.replicate 8 false ∧ r.path.lastDrop = none ∧
  r.path.reloadPending = false ∧ r.path.upWait = [] ∧
  r.cmd.code = .none ∧ r.cmd.echoed = 0 ∧ r.cmd.count = 0 ∧ r.cmd.lotStart = none ∧ inProgressFlag r = false ∧
  r.cmd.args = List.replicate 6 0 ∧ r.cmd.causes = 0 ∧ r.cmd.mask = 31 ∧ r.cmd.evNext = 0 ∧ r.cmd.evWrap = 0 ∧
  r.cmd.evConsumer = 0 ∧ r.cmd.evLost = false ∧ r.cmd.ms = 0 ∧ r.cmd.paramsValid = false ∧
  r.cmd.resetCause = .power ∧ r.cmd.warm = false ∧ r.cmd.resetting = false ∧ r.cmd.windowSel = 0 ∧
  attentionLine r = false ∧
  r.lots = ⟨none, none⟩ ∧ (∀ i, waferAt r i = none) ∧ r.table = [] ∧
  r.handling.state = .idle ∧ r.handling.order = none ∧ r.handling.tag = 0 ∧ r.handling.lastExpired = none ∧
  r.handling.removals = [] ∧ r.handling.prealign = none ∧
  (∀ p, portState r p = ⟨⟨false, false⟩, ⟨false, false⟩, none, none⟩) ∧
  r.visit = ⟨none, ⟨false, false, none, false⟩, 0, none, none, 0, none⟩ ∧
  r.focus.state = .idle ∧ r.focus.unsettled = false ∧ r.focus.run = 0 ∧ r.focus.settle = 0 ∧ r.focus.holdover = 0 ∧
  r.focus.accepted = [] ∧ r.focus.output = 0 ∧ r.focus.map = [] ∧ r.focus.seed = none ∧ r.focus.owed = true ∧
  r.focus.trace = none ∧ r.focus.traceHanded = false ∧
  r.guard = ⟨.normal, 0, 0, none⟩ ∧ r.report = ⟨[], 0, 0, 0⟩

/-- The state after power-on meets the invariant of `StepKeepsGoodState`. -/
def Obligations.ResetIsGood : Prop := GoodState State.reset

/-- The invariant of the part, which every step keeps: at most 16 jobs (R183), memory in its one form (log 1), 50 places
of wafer records (R14), the revisit table within its bounds and without a double entry (R69), zones and held slots
below the configuration page (R168, R176), copies of every argument cell and parameter word (R166, R202), and no
planner run left over (log 9). -/
def Obligations.StepKeepsGoodState : Prop :=
  ∀ s t : State, GoodState s → step s = .next t → GoodState t

/-- A HARD trip is latched (R141, R143, R144): while the guard is HARD_TRIPPED, every well-formed command but a
GUARD_CLEAR, a reset of the whole part, and a resumed access (which may be a GUARD_CLEAR) leaves it so, with its
trip height, and leaves the focus output where it is. -/
def Obligations.HardTripIsLatched : Prop :=
  ∀ (c : Instr) (s t : State), c.wellFormed = true →
    c ≠ .powerOn → c ≠ .lineReset → (∀ w, c ≠ .guardClear w) → (c = .burstResume → s.path.upWait = []) →
    s.guard.state = .hardTripped → exec c s = .next t →
      t.guard.state = .hardTripped ∧ t.guard.tripHeight = s.guard.tripHeight ∧
      t.focus.output = s.focus.output

/-- The planner. The run that ends a step (R35, R39): where one is due (log 9), handling is IDLE or PORT_WAIT, and the
part is not RESETTING, the order chosen is sent with the next tag and its timer, handling is BUSY, and a WAITING wafer
picked from its slot is TO_PA; with no order chosen, handling is PORT_WAIT where a return waits on an arm for its
closed home port, and else IDLE. Nothing else changes, and no run stays due. The order chosen (R36 to R38) is that of
the first rule of the list that applies, and there is none where none applies. Where both arms qualify under rule 6 or
rule 8 the model takes ARM_U (log 31). -/
def Obligations.FinishFrame : Prop :=
  ∀ s : State,
    let on := fun (l : Location) (p : Phase) (i : Nat) =>
      waferIn s l = some i ∧ ∃ w, waferAt s i = some w ∧ w.phase = p
    let empty := fun l : Location => ∀ i w, i < 50 → waferAt s i = some w → w.location ≠ l
    let arm := fun a : Arm => match a with | .u => Location.armU | .l => Location.armL
    let opened := fun i : Nat => (portState s (if i < 25 then .one else .two)).debounced.opened
    let home := fun (a : Arm) (i : Nat) => on (arm a) .reviewDone i ∧ opened i = true
    let homeward := fun a : Arm => empty (arm a) ∧ (a = .l → ¬ empty .armU)
    let aside := fun a : Arm => empty (arm a) ∧ (a = .u → ¬ empty .armL)
    let feeds := fun l : Lot => l.state = .active ∨
      (l.state = .pending ∧ ∀ a, s.lots.active = some a → a.state ≠ .held)
    let fed := fun i : Nat => ∃ w l, waferAt s i = some w ∧ lotOfRun s w.run = some l ∧ feeds l
    let waits := fun (l : Lot) (i : Nat) =>
      i < 50 ∧ ∃ w, waferAt s i = some w ∧ w.run = l.run ∧ w.phase = .waiting
    let between := (List.range 50).countP fun i => (waferAt s i).any fun w =>
      w.phase == .toPA || w.phase == .prealigning || (w.phase == .prealigned && w.location != .stage)
    let next := fun i : Nat => ∃ l, feeds l ∧ waits l i ∧ (∀ j, j < i → ¬ waits l j) ∧
      (s.lots.active = some l ∨ (s.lots.second = some l ∧
        ∀ a, s.lots.active = some a → ¬ (feeds a ∧ ∃ j, waits a j)))
    let applies := fun (rule : Nat) (p : Plan) => match rule with
      | 1 => ∃ a i, home a i ∧ (a = .l → ∀ j, ¬ home .u j) ∧ p = ⟨.place, i, arm a, .slot, some a⟩
      | 2 => ∃ i, on .stage .reviewDone i ∧ empty .ll ∧ p = ⟨.transfer, i, .stage, .ll, none⟩
      | 3 => ∃ i, empty .stage ∧ on .ll .prealigned i ∧ fed i ∧ s.guard.state ≠ .hardTripped ∧
          p = ⟨.transfer, i, .ll, .stage, none⟩
      | 4 => ∃ a i, on .ll .reviewDone i ∧ homeward a ∧ p = ⟨.pick, i, .ll, arm a, some a⟩
      | 5 => ∃ a i, on .pa .reviewDone i ∧ homeward a ∧ p = ⟨.pick, i, .pa, arm a, some a⟩
      | 6 => ∃ a i, on (arm a) .prealigned i ∧ fed i ∧ (a = .l → ∀ j, ¬ (on .armU .prealigned j ∧ fed j)) ∧
          empty .ll ∧ empty .stage ∧ p = ⟨.place, i, arm a, .ll, some a⟩
      | 7 => ∃ i, on .pa .prealigned i ∧ fed i ∧ empty .armU ∧ empty .armL ∧
          (empty .ll ∨ ∃ j, on .ll .reviewDone j) ∧ p = ⟨.pick, i, .pa, .armL, some .l⟩
      | 8 => ∃ a i, on (arm a) .toPA i ∧ (a = .l → ∀ j, ¬ on .armU .toPA j) ∧ empty .pa ∧
          p = ⟨.place, i, arm a, .pa, some a⟩
      | 9 => ∃ i, empty .pa ∧ empty .armU ∧ empty .armL ∧ between < 2 ∧ next i ∧ opened i = true ∧
          p = ⟨.pick, i, .slot, .armL, some .l⟩
      | 10 => ∃ a i, (∃ j, on .stage .reviewDone j) ∧ on .ll .prealigned i ∧ aside a ∧
          p = ⟨.pick, i, .ll, arm a, some a⟩
      | _ => False
    let may := s.handling.runDue = true ∧ (s.handling.state = .idle ∨ s.handling.state = .portWait) ∧
      s.cmd.resetting = false
    let heldBack := ∃ a i, on (arm a) .reviewDone i ∧ opened i = false
    let h := { s.handling with runDue := false }
    (∀ p, choosePlan s = some p ↔ ∃ n, applies n p ∧ ∀ m q, m < n → ¬ applies m q) ∧
    (choosePlan s = none ↔ ∀ n q, ¬ applies n q) ∧
    (¬ may → finish s = { s with handling := h }) ∧
    (may → choosePlan s = none → heldBack → finish s = { s with handling := { h with state := .portWait } }) ∧
    (may → choosePlan s = none → ¬ heldBack → finish s = { s with handling := { h with state := .idle } }) ∧
    (∀ p, may → choosePlan s = some p →
      let tag := s.handling.tag + 1
      finish s = { s with
        out := .order tag p.kind p.wafer p.src p.dst p.arm :: s.out
        wafers := if p.src = .slot
          then s.wafers.modify p.wafer (Option.map fun w => if w.phase = .waiting then { w with phase := .toPA } else w)
          else s.wafers
        handling := { h with
          state := .busy
          tag := tag
          order := some ⟨tag, p.kind, p.wafer, p.src, p.dst, p.arm, false,
            if p.kind = .transfer then paramNat s 1 else paramNat s 0⟩ } })

/-! ## Review memory -/

/-- A bus write of one word changes the enabled lanes of that word, and no other byte (R178); the model's memory keeps
its one form (log 1). -/
def Obligations.WriteChangesItsLanes : Prop :=
  ∀ (m : Memory) (a : Nat) (d : Word) (e : BitVec 4), Memory.wf m = true →
    (∀ k, k < 4 → readByte (writeWord m a d e) (a + k) = if e.getLsbD k then lane d k else readByte m (a + k)) ∧
    (∀ b, b < a ∨ a + 4 ≤ b → readByte (writeWord m a d e) b = readByte m b) ∧
    Memory.wf (writeWord m a d e) = true

/-! ## Events and the attention line -/

/-- Posting an event (R194, R197): its category becomes pending in every case. Under an EVENTS zone, a free ring
place and a free queue place, an EVENT job is queued that writes the event at the next place and then the ring
header (with the increased wrap count at a wrap, log 35), the places advance, and the lost flag is cleared; else the
event is dropped and the lost flag is set (a free place is taken also before a producer that waits, log 39). What
`pushJob` does beside the job, where the queue is full by it, stands in `PostingAndResume` (R184, log 29). Without a
zone neither happens. The four words of an event (R187), and the codes and categories of the kinds (R200). -/
def Obligations.PostEvent : Prop :=
  (∀ (k : EventKind) (wafer : Option Nat) (a b : Word) (s : State),
    let c := { s.cmd with causes := s.cmd.causes ||| k.category.bit }
    match zoneOf s .events with
    | none => postEvent k wafer a b s = { s with cmd := c }
    | some z =>
      let m := 256 * z.pages - 1
      let next := (s.cmd.evNext + 1) % m
      let wrap := if next = 0 then s.cmd.evWrap + 1 else s.cmd.evWrap
      if next ≠ s.cmd.evConsumer ∧ s.path.jobs.length < 16 then
        postEvent k wafer a b s = pushJob
          ⟨.event, burstsOf (z.base + 16 + 16 * s.cmd.evNext) (eventWords k wafer s.cmd.evLost s.cmd.ms a b)
            ++ burstsOf z.base [word next, word (flagBit s.cmd.evLost 0), wrap, 0], []⟩
          { s with cmd := { c with evNext := next, evWrap := wrap, evLost := false } }
      else postEvent k wafer a b s = { s with cmd := { c with evLost := true } }) ∧
  (∀ (k : EventKind) (wafer : Option Nat) (lost : Bool) (ms a b : Word), (∀ i, wafer = some i → i < 256) →
    eventWords k wafer lost ms a b = [word (k.code + 256 * (k.category.place + 1) + 65536 * wafer.getD 255
      + (if lost then 2147483648 else 0)), ms, a, b]) ∧
  [EventKind.mapInvalid, .handlerHalt, .stageFault, .guardTrip, .portClosed, .focusLost, .guardRelease, .waferOnStage,
    .waferReturned, .lateCompletion, .prealignError, .alignRequest, .alignAccepted, .alignRefused, .readyToGrab,
    .visitTimedOut, .realignNeeded, .reportWritten, .excursion, .lotStarted, .lotEnded, .lotHeld, .protectDrop,
    .paramClamped, .mapReloaded].map (fun k => (k.code, k.category.place + 1)) =
    [(1, 1), (2, 1), (3, 1), (4, 1), (5, 1), (6, 2), (7, 2), (8, 3), (9, 3), (10, 3), (11, 3), (12, 4), (13, 4),
      (14, 4), (15, 4), (16, 4), (17, 4), (18, 5), (19, 5), (20, 5), (21, 5), (22, 5), (23, 5), (24, 5), (25, 5)]

/-- A read of the cause cell, and the words that the part answers from its state. The read (R179, R182, R195) clears the
pending, unmasked category of highest priority, whose code it answers with the pending set and the mask as they stood,
and the eight reported marks; the words of its burst before it are answered as they stood before, and those after it as
they stand after. A read that must wait (R169, R172, R182, R185) stands behind the words that wait; that the words of
the burst come in one command is the model's form (log 34). The attention line (R196) is asserted exactly while some
category is pending and not masked. An overlay word (R113, R174, R181, R187, R189, R193, R195) is answered from state,
the two windows in MAPPED alone, and every other word, in a window of a TRANSPARENT path too, from memory. The
in-progress flag beside the code of a refusal is log 38's reading, and the window of a wafer without a record shows the
index selected alone (log 26). -/
def Obligations.CauseCellRead : Prop :=
  let top := fun s : State => [Category.fault, .focus, .handling, .review, .report].find? fun c =>
    s.cmd.causes.getLsbD c.place && !s.cmd.mask.getLsbD c.place
  let shown := fun s : State => word ((match top s with | none => 0 | some c => c.place + 1)
    + 256 * s.cmd.causes.toNat + 65536 * s.cmd.mask.toNat)
  let cleared := fun s : State => { s with
    cmd := { s.cmd with causes := match top s with
      | none => s.cmd.causes
      | some c => s.cmd.causes &&& ~~~c.bit }
    path := { s.path with reported := List.replicate 8 false } }
  let addr := fun (b : ReadBurst) (k : Nat) => 0xFFF128 - 4 * b.before.val + 4 * k
  let asked := fun b : ReadBurst => (List.range (b.before.val + 1 + b.after.val)).map fun k =>
    (⟨BitVec.ofNat 22 (addr b k / 4), .read, decide (k < b.before.val + b.after.val)⟩ : UpWord)
  let before := fun (b : ReadBurst) (s : State) =>
    (List.range b.before.val).map (fun k => upstreamRead s (addr b k)) ++ [shown s]
  let after := fun (b : ReadBurst) (s : State) =>
    (List.range b.after.val).map fun k => upstreamRead (cleared s) (0xFFF12C + 4 * k)
  (∀ (b : ReadBurst) (s : State), (Instr.causeCellRead b).wellFormed = true → NoRunDue s →
     let held := s.path.mode = .loading ∨ s.path.draining = true
     let yields := 12 ≤ depth s ∧ s.path.upBurst ≠ .carried
     (s.path.upWait = [] → ¬ held → ¬ yields ∨ (b.before.val ≤ 2 ∧ b.after.val = 0) →
       exec (.causeCellRead b) s = .next { cleared s with path := { (cleared s).path with
         upBurst := .none
         answered := (before b s ++ after b s).reverse ++ s.path.answered } }) ∧
     (s.path.upWait = [] → ¬ held → yields → b.before.val ≤ 2 → 1 ≤ b.after.val →
       exec (.causeCellRead b) s = .next { cleared s with path := { (cleared s).path with
         upBurst := .none
         upWait := (asked b).drop (b.before.val + 1)
         answered := (before b s).reverse ++ s.path.answered } }) ∧
     (s.path.upWait = [] → held ∨ (yields ∧ 3 ≤ b.before.val) →
       exec (.causeCellRead b) s = .next { s with path := { s.path with upWait := asked b, upBurst := .none } }) ∧
     (s.path.upWait ≠ [] →
       exec (.causeCellRead b) s = .next { s with path := { s.path with
         upWait := s.path.upWait ++ asked b } })) ∧
  (∀ s : State, attentionLine s = true ↔
     ∃ c : Category, s.cmd.causes.getLsbD c.place = true ∧ s.cmd.mask.getLsbD c.place = false) ∧
  (∀ (s : State) (a : Nat),
     let flag := fun (b : Bool) (k : Nat) => if b then 2 ^ k else 0
     let lot := fun l : Option Lot => match l with | none => 0 | some l => l.state.code
     let holds := fun k : Nat => flag s.visit.hold.suspend k + flag s.visit.hold.stage (k + 1)
       + flag s.visit.hold.align.isSome (k + 2) + flag s.visit.hold.guard (k + 3)
     let started := s.cmd.lotStart.isSome = true ∧ (s.cmd.code = .none ∨ s.cmd.code = .overrun)
     let x := fun p : Option Point => match p with | none => (0 : Word) | some p => wordOfInt p.x
     let y := fun p : Option Point => match p with | none => (0 : Word) | some p => wordOfInt p.y
     let i := s.cmd.windowSel.toNat % 256
     let waferWords : List Word := match waferAt s i with
       | none => [word (256 * i), 0, 0, 0, 0, 0, 0, 0, 0, 0, 0, 0, 0, 0, 0, 0]
       | some w =>
         [word (1 + 256 * i + 2 ^ 16 * w.location.code + 2 ^ 20 * w.phase.code
             + 2 ^ 24 * (match w.outcome with | none => 0 | some o => o.code)),
          w.lotNumber,
          word ((if i < 25 then 1 else 2) + 256 * (i % 25 + 1) + 2 ^ 16 * (w.align.used % 4)
             + 2 ^ 20 * w.align.state.code + flag (w.align.kind == .realign) 22
             + 2 ^ 24 * (match w.align.lastVerdict with | none => 0 | some v => v.code)),
          (match w.prealign with | none => 0 | some p => p.notch),
          (match w.prealign with | none => 0 | some p => word (p.offsetX.toNat + 65536 * p.offsetY.toNat)),
          (match w.transform with | none => 0 | some t => wordOfInt t.a),
          (match w.transform with | none => 0 | some t => wordOfInt t.b),
          word (flag w.prealign.isSome 0 + flag w.transform.isSome 1 + flag w.reviewEnd 2 + flag w.aborting 3
             + flag w.acc.isSome 4),
          wordOfInt w.drift.x, wordOfInt w.drift.y,
          word ((s.table.filter fun e => e.wafer == i).length % 2048 + 65536 *
             ((s.table.filter fun e => e.wafer == i && e.state == .queued).length % 2048)),
          0, 0, 0, 0, 0]
     let shared := flag s.visit.lastResult.isSome 12 + holds 24
     let result : List Word := match s.visit.lastResult with
       | none => [0, 0, 0, 0]
       | some r =>
         [word (r.entry % 2048 + flag (!r.found) 12 + 2 ^ 16 * (r.finalClass % 32) + flag r.found 21
             + 2 ^ 24 * (r.quality % 256)), wordOfInt r.offset.x, wordOfInt r.offset.y, 0]
     let visitWords : List Word := match s.visit.current with
       | none => [word (48 + shared), 0, 0, 0, 0, 0, word (s.visit.tag.toNat + 65536 * s.visit.faultCode.toNat),
           0, 0, 0, 0, 0]
       | some v =>
         [word (v.state.code + 16 * v.source.code + flag v.arrival.isSome 8 + flag v.captured.isSome 9
             + flag v.lockedAtStrobe 10 + flag v.predictedFocus 11
             + 2 ^ 16 * ((match entryAt s v.entry with | none => 0 | some e => e.retries) % 4) + shared),
          word (v.entry % 2048 + 65536 * (v.wafer % 256)), v.defectId,
          (match entryAt s v.entry with | none => 0 | some e => e.size),
          wordOfInt v.target.x, wordOfInt v.target.y,
          word (v.moveTag.toNat + 65536 * s.visit.faultCode.toNat),
          wordOfInt v.zPred, x v.arrival, y v.arrival, x v.captured, y v.captured]
     let drops := match s.path.lastDrop with | none => 0 | some z => s.path.drops.getD z 0
     (a = 0xFFF120 → upstreamRead s a = word (s.cmd.code.code + 256 * s.cmd.echoed.toNat
       + (if started then 65536 else 0) + 2 ^ 24 * s.cmd.count.toNat)) ∧
     (a = 0xFFF124 → s.cmd.windowSel.getLsbD 8 = false → upstreamRead s a =
       word (s.path.mode.code + flag s.cmd.resetting 2 + 8 * s.cmd.resetCause.code + flag s.cmd.warm 5
         + 2 ^ 6 * lot s.lots.active + 2 ^ 9 * lot s.lots.second + 2 ^ 12 * s.handling.state.code + holds 14
         + 2 ^ 18 * s.focus.state.code + 2 ^ 21 * s.guard.state.code + flag s.path.reloadPending 23)) ∧
     (a = 0xFFF124 → s.cmd.windowSel.getLsbD 8 = true → upstreamRead s a =
       word (depth s % 32 + 2 ^ 6 * (s.report.queue.length % 64)
         + 2 ^ 12 * ((match s.path.lastDrop with | none => 15 | some z => z) % 16)
         + 2 ^ 16 * (min drops 32767) + 2 ^ 31)) ∧
     (a = 0xFFF128 → upstreamRead s a = shown s) ∧
     (∀ k, k < 16 → s.path.mode = .mapped → a = 0xFFF140 + 4 * k → upstreamRead s a = waferWords.getD k 0) ∧
     (∀ k, k < 16 → s.path.mode = .mapped → a = 0xFFF180 + 4 * k →
       upstreamRead s a = (visitWords ++ result).getD k 0) ∧
     (a ≠ 0xFFF120 → a ≠ 0xFFF124 → a ≠ 0xFFF128 → s.path.mode ≠ .mapped ∨ a < 0xFFF140 ∨ 0xFFF1C0 ≤ a →
       upstreamRead s a = readWord s.mem a)) ∧
  [Location.slot, .armU, .armL, .pa, .ll, .stage, .unknown].map Location.code = List.range 7 ∧
  [Phase.waiting, .skipped, .toPA, .prealigning, .prealigned, .aligning, .reviewing, .reviewDone, .returned].map
    Phase.code = List.range 9 ∧
  [WaferOutcome.complete, .aborted, .alignFailed, .prealignFailed, .cut, .notSelected, .slotEmpty].map
    WaferOutcome.code = [1, 2, 3, 4, 5, 6, 7] ∧
  [AttemptState.none, .collecting, .closeWaiting].map AttemptState.code = [0, 1, 2] ∧
  [Verdict.accepted, .incomplete, .marksTooClose, .coeffRange, .checkFailed].map Verdict.code = [1, 2, 3, 4, 5] ∧
  [LotState.active, .pending, .held, .aborting, .closing].map LotState.code = [1, 2, 3, 4, 5] ∧
  [HandlingState.idle, .busy, .halted, .portWait].map HandlingState.code = [0, 1, 2, 3] ∧
  [VisitState.moving, .settling, .ready, .grabbed].map VisitState.code = [1, 2, 3, 4] ∧
  [FocusSource.nearest, .mapMean, .lotSeed, .nominal].map FocusSource.code = [0, 1, 2, 3] ∧
  [FocusState.idle, .acquiring, .locked, .holdover, .lost].map FocusState.code = [0, 1, 2, 3, 4] ∧
  [GuardState.normal, .softTripped, .hardTripped].map GuardState.code = [0, 1, 2] ∧
  [PathMode.loading, .mapped, .transparent].map PathMode.code = [0, 1, 2] ∧
  [ResetCause.power, .line, .soft].map ResetCause.code = [0, 1, 2] ∧
  [CommandCode.none, .accepted, .noMap, .lotQueueFull, .portInUse, .portNotReady, .layoutInvalid, .noLot,
    .notReviewing, .notHalted, .notUnknown, .occupied, .stillOut, .unknownCommand, .inReset, .overrun].map
    CommandCode.code = List.range 16

/-! ## Commands: the tests, and the commands of the lot unit -/

/-- The tests that every command meets (R188): the code of the first that holds is shown, the command counted, its
value echoed, and nothing else changes but the word in memory. The row UNKNOWN_COMMAND ends here; that a value of 0 or
above 13 is answered so while a LOT_START is in progress too, where R190 says OVERRUN, is the model's reading (log 38). -/
def Obligations.CommandTests : Prop :=
  ∀ (v : BitVec 8) (w : CommandWrite) (s : State), PageOpen s → NoRunDue s →
    let refusedWith := fun c : CommandCode =>
      exec (commandRow v w) s =
        .next { commandSeen v w s with cmd := { (commandSeen v w s).cmd with code := c } }
    (s.cmd.resetting = true → refusedWith .inReset) ∧
    (s.cmd.resetting = false → v.toNat = 0 ∨ 13 < v.toNat → exec (.unknownCommand v w) s =
      .next { commandSeen v w s with cmd := { (commandSeen v w s).cmd with code := .unknownCommand } }) ∧
    (s.cmd.resetting = false → 1 ≤ v.toNat → v.toNat ≤ 11 → s.path.mode = .transparent → refusedWith .noMap) ∧
    (s.cmd.resetting = false → 1 ≤ v.toNat → v.toNat ≤ 12 → s.path.mode = .mapped ∨ v.toNat = 12 →
      s.cmd.lotStart.isSome = true → refusedWith .overrun)

/-- LOT_START, first test (R2): refused with NO_MAP under an incomplete map or with a reload pending; otherwise in
progress, with the arguments of the moment, and the layout record at index A3 (or record 0) to be read.
LAYOUT_READ_QUEUED (R184): a LOT_START that waits for a queue place takes one when a place is free and its turn has
come, by the order among the three waiting producers that is the model's reading (log 29); that the row changes nothing
without a layout read that waits is the model's reading too (log 5). -/
def Obligations.LotStart : Prop :=
  let job := fun (z : Zone) (a3 : Word) =>
    (⟨.layout, readBlocks 2 (z.base + 64 * (if a3.toNat ≤ 15 then a3.toNat else 0)), []⟩ : Job)
  (∀ (w : CommandWrite) (s : State), TakesCommands s →
    let u := commandSeen 1 w s
    let a := fun k => s.cmd.args.getD k 0
    (mapComplete s = false ∨ s.path.reloadPending = true →
      exec (.lotStart w) s = .next { u with cmd := { u.cmd with code := .noMap } }) ∧
    (∀ z, mapComplete s = true → s.path.reloadPending = false → zoneOf s .layout = some z →
      exec (.lotStart w) s = .next { u with
        cmd := { u.cmd with code := .none, lotStart := some ⟨a 0, a 1, a 2, a 3⟩ }
        path := { u.path with jobs := s.path.jobs ++ [job z (a 3)] } })) ∧
  (∀ (r : LotRequest) (z : Zone) (s : State), NoRunDue s → s.cmd.lotStart = some r → zoneOf s .layout = some z →
    s.path.waiters.head? = some .layout → s.path.jobs.length < 16 →
    exec .layoutReadQueued s = .next (pushJob (job z r.a3) { s with path := { s.path with
      waiters := s.path.waiters.filter fun q => q != .layout } })) ∧
  (∀ s : State, NoRunDue s → Producer.layout ∉ s.path.waiters → exec .layoutReadQueued s = .next s)

/-- LAYOUT_READ_COMPLETE (R3 to R5, R12): NO_MAP if a reload has begun or is pending; else the code of the first
failing test of R3; else the lot is placed, the 25 records are made, LOT_STARTED is posted, the command shows
ACCEPTED, and the closing condition is tested. The read of a LOT_START that a soft reset has abandoned (R190) completes
with no test: the job leaves the queue, and nothing else changes. The fields of a layout record (R187). -/
def Obligations.LayoutReadComplete : Prop :=
  (∀ (r : LotRequest) (s : State), headKind s = some .layout → s.cmd.lotStart = some r → NoRunDue s →
    let l := Layout.ofWords (headWords s)
    let u := { finishHead s with cmd := { s.cmd with lotStart := none } }
    let refusedWith := fun c : CommandCode =>
      exec .layoutReadComplete s = .next { u with cmd := { u.cmd with code := c } }
    let port := if r.a1 = 1 then some Port.one else if r.a1 = 2 then some Port.two else none
    let full := s.lots.active.isSome = true ∧ s.lots.second.isSome = true
    let inUse := ∃ p, port = some p ∧ ∃ k ∈ lotList s, usesPort s k p = true
    let ready := fun (p : Port) (m : BitVec 25) =>
      port = some p ∧ (portState s p).debounced = ⟨true, true⟩ ∧ (portState s p).slotMap = some m
    let valid := r.a3.toNat ≤ 15 ∧
      (1000000 ≤ l.pitch.x ∧ l.pitch.x ≤ 60000000) ∧ (1000000 ≤ l.pitch.y ∧ l.pitch.y ≤ 60000000) ∧
      (-160000000 ≤ l.origin.x ∧ l.origin.x ≤ 160000000) ∧ (-160000000 ≤ l.origin.y ∧ l.origin.y ≤ 160000000)
    let noReload := s.path.draining = false ∧ s.path.reloadPending = false
    (¬ noReload → refusedWith .noMap) ∧
    (noReload → full → refusedWith .lotQueueFull) ∧
    (noReload → ¬ full → inUse → refusedWith .portInUse) ∧
    (noReload → ¬ full → ¬ inUse → (∀ p m, ¬ ready p m) → refusedWith .portNotReady) ∧
    (noReload → ¬ full → ¬ inUse → (∃ p m, ready p m) → ¬ valid → refusedWith .layoutInvalid) ∧
    (∀ p m, noReload → ¬ full → ¬ inUse → ready p m → valid →
      let lot := newLot s r p l
      exec .layoutReadComplete s = .next (finish (closingTest lot.run (wantPlan (answer .accepted
        (postEvent .lotStarted none r.a0 (word (portNumber p)) { u with
          lots := if s.lots.active.isNone then ⟨some lot, s.lots.second⟩ else ⟨s.lots.active, some lot⟩
          wafers := createWafers p lot.run r.a0 (r.a2.setWidth 25) m s.wafers
          nextRun := s.nextRun + 1 }))))))) ∧
  (∀ s : State, headKind s = some .layout → s.cmd.lotStart = none → NoRunDue s →
     exec .layoutReadComplete s = .next (finishHead s)) ∧
  (∀ (w0 w1 w2 w3 w4 w5 : Word) (rest : List Word),
     Layout.ofWords (w0 :: w1 :: w2 :: w3 :: w4 :: w5 :: rest) =
       ⟨⟨w0.toInt, w1.toInt⟩, ⟨w2.toInt, w3.toInt⟩, w4.toInt, w5.toInt⟩)

/-- What LOT_START makes: one record for each slot of the port, by selection and presence, and none for the other port
(R5); and a lot whose state follows from its position, with the quotas, the watches and the trace settings as they
stand in force, and the layout record (R4). -/
def Obligations.LotIsMade : Prop :=
  (∀ (p : Port) (run : Nat) (number : Word) (sel present : BitVec 25) (s : State) (i : Nat),
     TableOfWafers s → i < 50 →
     let t := { s with wafers := createWafers p run number sel present s.wafers }
     let k := i % 25
     (homePort i ≠ p → waferAt t i = waferAt s i) ∧
     (homePort i = p → ∃ w, waferAt t i = some w ∧
       w.run = run ∧ w.lotNumber = number ∧ w.location = .slot ∧ w.prealign = none ∧ w.align.used = 0 ∧
       w.transform = none ∧ w.drift = ⟨0, 0⟩ ∧ w.aborting = false ∧ w.reviewEnd = false ∧
       (sel.getLsbD k = false → w.phase = .skipped ∧ w.outcome = some .notSelected ∧ w.acc = none) ∧
       (sel.getLsbD k = true → present.getLsbD k = false →
         w.phase = .skipped ∧ w.outcome = some .slotEmpty ∧ w.acc = none) ∧
       (sel.getLsbD k = true → present.getLsbD k = true →
         w.phase = .waiting ∧ w.outcome = none ∧ w.acc = some .zero))) ∧
  (∀ (s : State) (r : LotRequest) (p : Port) (l : Layout),
     let lot := newLot s r p l
     lot.number = r.a0 ∧ lot.port = some p ∧ lot.selection = r.a2.setWidth 25 ∧
     lot.layoutIndex = some r.a3.toNat ∧ lot.reportRequested = false ∧
     (s.lots.active = none → lot.state = .active) ∧ (s.lots.active ≠ none → lot.state = .pending) ∧
     ∃ st, lot.settings = some st ∧ st.layout = l ∧ st.quotas.length = 16 ∧ st.watches.length = 4 ∧
       (∀ c, c < 16 → st.quotas.getD c 0 = paramNat s (32 + c)) ∧
       (∀ n, n < 4 → st.watches[n]? = some ⟨paramNat s (64 + 5 * n), paramNat s (65 + 5 * n),
         paramNat s (66 + 5 * n), param s (67 + 5 * n) == 1, param s (68 + 5 * n) == 1⟩) ∧
       st.traceClass = paramNat s 48 ∧ st.traceMask = paramNat s 49 ∧
       st.traceMismatch = (param s 50 == 1) ∧ st.traceEnable = (param s 51 == 1))

/-- The holds of a lot. LOT_HOLD (R7): NO_LOT with an empty queue; an ACTIVE lot in the active position becomes HELD and
LOT_HELD is posted; in any other state of it nothing changes but the status. The hold of a watch (R9): an ACTIVE or
PENDING lot becomes HELD, and LOT_HELD carries the watch number. The excursion watches (R162, R163): the run of an
enabled watch after a report, by the outcome and the class count; a watch fires where its run comes to K, which posts
EXCURSION and may ask for the hold, in rising watch number (the model's choice, log 37). What a wafer report leaves in
the lot accumulators (R152). A wafer report is built (R149): the lot counts it, it joins the report queue and the ring is
tested, then the watches fire; where the report's hold and a planner run may come in either order (R40), a free choice
takes the planner run before it or not (log 9); without accumulators, or while RESETTING (R165), there is none. -/
def Obligations.LotHold : Prop :=
  let hold := fun (run : Nat) (l : Lot) (a : Word) (s : State) => postEvent .lotHeld none l.number a
    (wantPlan (updLot run (fun l => { l with state := .held }) s))
  let mayHold := fun l : Lot => l.state = .active ∨ l.state = .pending
  (∀ (w : CommandWrite) (s : State), TakesCommands s →
     let u := commandSeen 2 w s
     let ok := { u with cmd := { u.cmd with code := .accepted } }
     (s.lots = ⟨none, none⟩ → exec (.lotHold w) s = .next { u with cmd := { u.cmd with code := .noLot } }) ∧
     (s.lots ≠ ⟨none, none⟩ → (∀ l, s.lots.active = some l → l.state ≠ .active) →
       exec (.lotHold w) s = .next ok) ∧
     (∀ l, s.lots.active = some l → l.state = .active →
       exec (.lotHold w) s = .next (finish (hold l.run l 0 ok)))) ∧
  (∀ (run n : Nat) (s : State),
     (∀ l, lotOfRun s run = some l → mayHold l → holdByWatch run n s = hold run l (word n) s) ∧
     ((∀ l, lotOfRun s run = some l → ¬ mayHold l) → holdByWatch run n s = s)) ∧
  (∀ (o : Option WaferOutcome) (counts : List Nat) (w : Watch) (run : Nat),
     let counted := w.enable = true ∧ (o = some .complete ∨ o = some .aborted)
     let n := counts.getD w.cls 0
     (counted → w.threshold ≤ n → watchRun o counts w run = min 25 (run + 1)) ∧
     (counted → n < w.threshold → watchRun o counts w run = 0) ∧
     (¬ counted → watchRun o counts w run = run) ∧
     (watchFires o counts w run = true ↔
       run < watchRun o counts w run ∧ watchRun o counts w run = w.runLength)) ∧
  (∀ (o : Option WaferOutcome) (counts : List Nat) (ws : List Watch) (a : LotAcc),
     counts.length = 32 → a.totals.length = 32 → ws.length = 4 → a.runs.length = 4 → a.flags.length = 4 →
     let b := countReport o counts ws a
     (∀ c, c < 32 → b.totals.getD c 0 = min 65535 (a.totals.getD c 0 + counts.getD c 0)) ∧
     (b.saturated = true ↔
       a.saturated = true ∨ ∃ c, c < 32 ∧ 65535 < a.totals.getD c 0 + counts.getD c 0) ∧
     (∀ n w, ws[n]? = some w →
       b.runs.getD n 0 = watchRun o counts w (a.runs.getD n 0) ∧
       (b.flags.getD n false = true ↔
         a.flags.getD n false = true ∨ watchFires o counts w (a.runs.getD n 0) = true))) ∧
  (∀ (run i : Nat) (o : Option WaferOutcome) (counts : List Nat) (n : Nat) (w : Watch) (ws : List Watch) (r : Nat)
     (rs : List Nat) (s : State),
     let shown := postEvent .excursion (some i) (word n) (word (counts.getD w.cls 0)) s
     fireWatches run i o counts n (w :: ws) (r :: rs) s = fireWatches run i o counts (n + 1) ws rs
       (if watchFires o counts w r then (if w.hold then holdByWatch run n shown else shown) else s) ∧
     fireWatches run i o counts n [] rs s = s ∧ fireWatches run i o counts n ws [] s = s) ∧
  (∀ (i : Nat) (s : State) (w : Wafer), waferAt s i = some w →
     (w.acc = none ∨ s.cmd.resetting = true → buildWaferReport i s = s) ∧
     (∀ a l la st, w.acc = some a → s.cmd.resetting = false → lotOfRun s w.run = some l → l.acc = some la →
       l.settings = some st →
       let runs := (countReport w.outcome a.classCounts st.watches la).runs
       let built := fun t : State =>
         let counted := updLot w.run (fun l =>
           { l with acc := l.acc.map (countReport w.outcome a.classCounts st.watches) }) t
         fireWatches w.run i w.outcome a.classCounts 1 st.watches la.runs (ringTest { counted with
           report := { counted.report with queue := counted.report.queue ++
             [⟨.wafer i, waferReportWords counted i w a runs⟩] } })
       let races := (∃ n x, st.watches[n]? = some x ∧ x.hold = true ∧ n < la.runs.length ∧
           watchFires w.outcome a.classCounts x (la.runs.getD n 0) = true) ∧
         mayHold l ∧ (s.handling.state = .idle ∨ s.handling.state = .portWait)
       let drawn := { s with choices := s.choices + 1 }
       (¬ races → buildWaferReport i s = built s) ∧
       (races → buildWaferReport i s = built drawn ∨ buildWaferReport i s = built (runPlanner drawn))))

/-- LOT_RELEASE (R8): NO_LOT with an empty queue; otherwise each HELD lot takes the state of its position, a lot in
another state is left, no event is posted, and the planner runs if a lot changed. -/
def Obligations.LotRelease : Prop :=
  ∀ (w : CommandWrite) (s : State), TakesCommands s →
    let u := commandSeen 3 w s
    let ok := { u with cmd := { u.cmd with code := .accepted } }
    let freed := fun (st : LotState) (l : Lot) => if l.state = .held then { l with state := st } else l
    (s.lots = ⟨none, none⟩ → exec (.lotRelease w) s = .next { u with cmd := { u.cmd with code := .noLot } }) ∧
    (s.lots ≠ ⟨none, none⟩ → (∀ l ∈ lotList s, l.state ≠ .held) → exec (.lotRelease w) s = .next ok) ∧
    ((∃ l ∈ lotList s, l.state = .held) →
      exec (.lotRelease w) s = .next (finish { ok with
        lots := ⟨s.lots.active.map (freed .active), s.lots.second.map (freed .pending)⟩
        handling := { s.handling with runDue := true } }))

/-- LOT_ABORT (R10, R11): NO_LOT with an empty queue; otherwise an ACTIVE or HELD active lot is aborted, and with
A0 = 1 then a PENDING or HELD pending lot too, and the command completes. An abort makes the lot ABORTING, with a planner
run due, and then treats each of its wafers by its phase (R10, R17), in order of their indices (the model's choice, log
11): WAITING is cut in its slot; a wafer on its way forward ends its review with CUT; ALIGNING and REVIEWING are aborted
as WAFER_ABORT does; the others are left. A wafer cut in its slot (R10, R17, R149) is RETURNED with outcome CUT where it
had none, the closing condition is tested, its queued entries are skipped and its report is built; no entry of it stays
queued, and its place and the other wafers' places are as they were. -/
def Obligations.LotAbort : Prop :=
  (∀ (w : CommandWrite) (s : State), TakesCommands s →
     let u := commandSeen 4 w s
     let ok := { u with cmd := { u.cmd with code := .accepted } }
     let aborted := fun (l : Lot) (s : State) =>
       ((List.range 50).filter fun i => (waferAt s i).any fun x => x.run == l.run).foldl (fun t i => cutWafer i t)
         (wantPlan (updLot l.run (fun x => { x with state := .aborting }) s))
     let first := match s.lots.active with
       | some l => if l.state = .active ∨ l.state = .held then aborted l ok else ok
       | none => ok
     let both := match first.lots.second with
       | some l => if l.state = .pending ∨ l.state = .held then aborted l first else first
       | none => first
     (s.lots = ⟨none, none⟩ → exec (.lotAbort w) s = .next { u with cmd := { u.cmd with code := .noLot } }) ∧
     (s.lots ≠ ⟨none, none⟩ → s.cmd.args.getD 0 0 ≠ 1 → exec (.lotAbort w) s = .next (finish first)) ∧
     (s.lots ≠ ⟨none, none⟩ → s.cmd.args.getD 0 0 = 1 → exec (.lotAbort w) s = .next (finish both))) ∧
  (∀ (i : Nat) (s : State) (w : Wafer), waferAt s i = some w →
     (w.phase = .waiting → cutWafer i s = cutInSlot i s) ∧
     (w.phase = .toPA ∨ w.phase = .prealigning ∨ w.phase = .prealigned →
       cutWafer i s = enterReviewDone i .cut s) ∧
     (w.phase = .aligning ∨ w.phase = .reviewing → cutWafer i s = abortWafer i s) ∧
     (w.phase = .reviewDone ∨ w.phase = .returned ∨ w.phase = .skipped → cutWafer i s = s)) ∧
  (∀ (i : Nat) (s : State) (w : Wafer), waferAt s i = some w →
     let t := cutInSlot i s
     t = wantPlan (buildWaferReport i (skipQueued i (closingTest w.run (updWafer i (fun x => { x with
       phase := .returned, outcome := some (x.outcome.getD .cut) }) s)))) ∧
     (∀ x, waferAt t i = some x → x.phase = .returned ∧ x.outcome = some (w.outcome.getD .cut)) ∧
     (∀ j x, waferAt t j = some x → ∃ y, waferAt s j = some y ∧ x.location = y.location ∧ x.run = y.run) ∧
     (∀ e ∈ t.table, e.wafer = i → e.state ≠ .queued))

/-- The end of a wafer's review (R15 to R17, R32, R60, R83, R149): the wafer is REVIEW_DONE with its outcome where it had
none, and its prealignment, its attempt and its ALIGN hold are cleared; the closing condition is tested; its queued
entries are skipped; its report is built and the planner is due; and it goes home where it is home. So it is REVIEW_DONE
or, at home, RETURNED, and memory, the visit in flight, the focus output and map and the guard are as they were. Home
(R17): a REVIEW_DONE wafer in its slot with no order in flight is RETURNED, and WAFER_RETURNED is posted. An entry that is
retired takes its state and is counted in its wafer's accumulators (R82); skipping does so for each queued entry of the
wafer, in review order (R83). The closing condition (R12) makes a lot CLOSING once no wafer of it is open, and then the
request is tested: a CLOSING lot with each wafer home and no report of one unwritten gets its lot report once, and none
while RESETTING (R165); lot 0, which has none, ends (R20). -/
def Obligations.ReviewEnds : Prop :=
  (∀ (i : Nat) (o : WaferOutcome) (s : State) (w : Wafer), waferAt s i = some w →
    let t := enterReviewDone i o s
    t = settleHome i (wantPlan (buildWaferReport i (skipQueued i (closingTest w.run (updWafer i
      (fun x => { x with
        phase := .reviewDone
        outcome := some (x.outcome.getD o)
        align := { x.align with state := .none, primary := none, secondary := none, checks := [] } })
      { s with
        handling := { s.handling with prealign := s.handling.prealign.filter fun p => p.1 != i }
        visit := { s.visit with hold := { s.visit.hold with
          align := s.visit.hold.align.filter fun j => j != i } } }))))) ∧
    t.mem = s.mem ∧ t.visit.current = s.visit.current ∧ t.focus.output = s.focus.output ∧
    t.focus.map = s.focus.map ∧ t.guard = s.guard ∧
    (∀ x, waferAt t i = some x →
      (x.phase = .reviewDone ∨ x.phase = .returned) ∧ x.outcome = some (w.outcome.getD o) ∧
      x.location = w.location ∧ x.align.state = .none ∧ x.align.primary = none ∧ x.align.secondary = none ∧
      x.align.checks = []) ∧
    (∀ p, t.handling.prealign = some p → p.1 ≠ i) ∧ t.visit.hold.align ≠ some i) ∧
  (∀ (i : Nat) (s : State) (w : Wafer), waferAt s i = some w →
     let home := w.phase = .reviewDone ∧ w.location = .slot ∧ ∀ o, s.handling.order = some o → o.wafer ≠ i
     (home → settleHome i s = closingTest w.run (postEvent .waferReturned (some i) (word i) 0
       (updWafer i (fun x => { x with phase := .returned }) s))) ∧
     (¬ home → settleHome i s = s)) ∧
  (∀ (st : EntryState) (e f : Entry) (s : State), entryAt s e.index = some f →
     retireEntry st e s = updWafer f.wafer (fun x => { x with acc := x.acc.map (countEntry { f with state := st }) })
       { s with table := s.table.map fun x => if x.index = e.index then { x with state := st } else x }) ∧
  (∀ (i : Nat) (s : State),
     skipQueued i s = (queuedList s i).foldl (fun t e => retireEntry .skipped e t) s ∧
     (RevisitTable s → (skipQueued i s).table = s.table.map fun e =>
       if e.wafer = i ∧ e.state = .queued then { e with state := .skipped } else e)) ∧
  (∀ (run : Nat) (l : Lot) (s : State), lotOfRun s run = some l →
     let each := fun p : Wafer → Prop => ∀ i w, i < 50 → waferAt s i = some w → w.run = run → p w
     let closed := each fun w => w.phase = .skipped ∨ w.phase = .reviewDone ∨ w.phase = .returned
     let asks := l.state = .closing ∧ l.reportRequested = false ∧
       each fun w => (w.phase = .skipped ∨ w.phase = .returned) ∧ w.acc = none
     (l.state ≠ .closing → closed → closingTest run s =
       requestTest run (wantPlan (updLot run (fun l => { l with state := .closing }) s))) ∧
     (l.state = .closing ∨ ¬ closed → closingTest run s = requestTest run s) ∧
     (¬ asks → requestTest run s = s) ∧
     (∀ a, asks → l.acc = some a → s.cmd.resetting = true → requestTest run s = s) ∧
     (∀ a, asks → l.acc = some a → s.cmd.resetting = false →
       let u := updLot run (fun l => { l with reportRequested := true }) s
       requestTest run s = ringTest { u with report := { s.report with
         queue := s.report.queue ++ [⟨.lot run, lotReportWords s l a⟩] } }) ∧
     (asks → l.acc = none → l.settings = none → requestTest run s = endLot l s) ∧
     (asks → l.acc = none → l.settings ≠ none → requestTest run s = s))

/-! ## Commands that name a wafer -/

/-- WAFER_ABORT (R18, R60, R111): NOT_REVIEWING unless A0 names a wafer in ALIGNING or REVIEWING; a second one changes
nothing; otherwise the wafer is marked and its attempt dropped. With no visit of it in flight its review ends with
ABORTED; a GRABBED visit runs on; any other visit ends at once with its entry SKIPPED. -/
def Obligations.WaferAbort : Prop :=
  ∀ (w : CommandWrite) (s : State), TakesCommands s →
    let u := commandSeen 5 w s
    let ok := { u with cmd := { u.cmd with code := .accepted } }
    let i := (s.cmd.args.getD 0 0).toNat
    let inReview := fun x : Wafer => x.phase = .aligning ∨ x.phase = .reviewing
    let marked := updWafer i (fun x => { x with
      aborting := true
      align := { x.align with state := .none, primary := none, secondary := none, checks := [] } }) ok
    ((50 ≤ i ∨ ∀ x, waferAt s i = some x → ¬ inReview x) →
      exec (.waferAbort w) s = .next { u with cmd := { u.cmd with code := .notReviewing } }) ∧
    (∀ x, i < 50 → waferAt s i = some x → inReview x →
      (x.aborting = true → exec (.waferAbort w) s = .next ok) ∧
      (x.aborting = false → (∀ v, s.visit.current = some v → v.wafer ≠ i) →
        exec (.waferAbort w) s = .next (finish (enterReviewDone i .aborted marked))) ∧
      (∀ v, x.aborting = false → s.visit.current = some v → v.wafer = i →
        (v.state = .grabbed → exec (.waferAbort w) s = .next marked) ∧
        (v.state ≠ .grabbed → exec (.waferAbort w) s =
          .next (finish (completeAbort i (failVisit v .skipped (haltMove marked)))))))

/-- REVIEW_END (R84): NOT_REVIEWING unless A0 names a wafer in WAITING to REVIEWING; a mark already set is left;
otherwise it is set, and the dispatcher runs if the wafer is REVIEWING on the stage. -/
def Obligations.ReviewEndCommand : Prop :=
  ∀ (w : CommandWrite) (s : State), TakesCommands s →
    let u := commandSeen 6 w s
    let ok := { u with cmd := { u.cmd with code := .accepted } }
    let i := (s.cmd.args.getD 0 0).toNat
    let closed := fun x : Wafer => x.phase = .skipped ∨ x.phase = .reviewDone ∨ x.phase = .returned
    let ended := updWafer i (fun x => { x with reviewEnd := true }) ok
    ((50 ≤ i ∨ ∀ x, waferAt s i = some x → closed x) →
      exec (.reviewEnd w) s = .next { u with cmd := { u.cmd with code := .notReviewing } }) ∧
    (∀ x, i < 50 → waferAt s i = some x → ¬ closed x →
      (x.reviewEnd = true → exec (.reviewEnd w) s = .next ok) ∧
      (x.reviewEnd = false → x.phase ≠ .reviewing ∨ x.location ≠ .stage → exec (.reviewEnd w) s = .next ended) ∧
      (x.reviewEnd = false → x.phase = .reviewing → x.location = .stage →
        exec (.reviewEnd w) s = .next (finish (dispatch ended))))

/-- REALIGN (R66): NOT_REVIEWING unless A0 names a REVIEWING wafer that is not aborting; with an attempt open or waiting
nothing changes; otherwise a realignment starts, ALIGN joins the hold set, and REALIGN_NEEDED is posted. -/
def Obligations.Realign : Prop :=
  ∀ (w : CommandWrite) (s : State), TakesCommands s →
    let u := commandSeen 9 w s
    let ok := { u with cmd := { u.cmd with code := .accepted } }
    let i := (s.cmd.args.getD 0 0).toNat
    let may := fun x : Wafer => x.phase = .reviewing ∧ x.aborting = false
    ((50 ≤ i ∨ ∀ x, waferAt s i = some x → ¬ may x) →
      exec (.realign w) s = .next { u with cmd := { u.cmd with code := .notReviewing } }) ∧
    (∀ x, i < 50 → waferAt s i = some x → may x →
      (x.align.state ≠ .none → exec (.realign w) s = .next ok) ∧
      (x.align.state = .none → exec (.realign w) s = .next (postEvent .realignNeeded (some i) 2
        (packPair x.drift.x x.drift.y)
        { updWafer i (fun x => { x with align := { x.align with
            state := .collecting, primary := none, secondary := none, checks := [], kind := .realign, used := 0 } }) ok
          with visit := { s.visit with hold := { s.visit.hold with align := some i } } })))

/-- RECOVER_WAFER (R30, R31): the three tests in order; an accepted one sets the location, ends a journey forward with
CUT, makes a wafer in its home slot RETURNED, and with no wafer left UNKNOWN makes handling IDLE with a planner
run. -/
def Obligations.RecoverWafer : Prop :=
  ∀ (w : CommandWrite) (s : State), TakesCommands s →
    let u := commandSeen 11 w s
    let ok := { u with cmd := { u.cmd with code := .accepted } }
    let i := (s.cmd.args.getD 0 0).toNat
    let lost := i < 50 ∧ ∃ x, waferAt s i = some x ∧ x.location = .unknown
    let free := fun l : Location => l = .slot ∨ ∀ j x, j < 50 → waferAt s j = some x → x.location ≠ l
    let place := [Location.slot, .armU, .armL, .pa, .ll, .stage][(s.cmd.args.getD 1 0).toNat]?
    let answered := fun c : CommandCode =>
      exec (.recoverWafer w) s = .next { u with cmd := { u.cmd with code := c } }
    (s.handling.state ≠ .halted → answered .notHalted) ∧
    (s.handling.state = .halted → ¬ lost → answered .notUnknown) ∧
    (s.handling.state = .halted → lost → (∀ l, place = some l → ¬ free l) → answered .occupied) ∧
    (∀ l x, s.handling.state = .halted → lost → place = some l → free l → waferAt s i = some x →
      let s1 := updWafer i (fun x => { x with location := l }) ok
      let s2 := settleHome i (if x.phase = .toPA ∨ x.phase = .prealigned then enterReviewDone i .cut s1 else s1)
      exec (.recoverWafer w) s = .next (finish (if anyUnknown s2 then s2
        else { s2 with handling := { s2.handling with state := .idle, runDue := true } })))

/-! ## The handler link -/

/-- A wafer changes location (R21, R24, R129): its record takes the place, and every other record stays; where it leaves
the stage, the lot seed takes the mean height of a map that holds a point, owned by the wafer's lot, and the map is
emptied. Nothing else changes. -/
def Obligations.WaferMoves : Prop :=
  ∀ (i : Nat) (l : Location) (s : State) (w : Wafer), waferAt s i = some w →
    let t := moveWafer i l s
    waferAt t i = some { w with location := l } ∧ (∀ j, j ≠ i → waferAt t j = waferAt s j) ∧
    (w.location ≠ .stage ∨ l = .stage → t = { s with wafers := t.wafers }) ∧
    (w.location = .stage → l ≠ .stage → t = { s with
      wafers := t.wafers
      focus := { s.focus with
        map := []
        seed := if s.focus.map = [] then s.focus.seed
          else some ⟨roundDiv (s.focus.map.map (·.z)).sum s.focus.map.length, w.run⟩ } })

/-- DONE with result OK (R23, R24, R32): the wafer is at its destination, the further effect of the place follows, the
order's fields are cleared, handling is IDLE and the planner runs. A first alignment (R49) makes the wafer ALIGNING, with
a COLLECTING attempt of kind FIRST, no marks and no attempt used, and posts ALIGN_REQUEST with the notch angle and the
centre offset of the prealignment, or zeros. -/
def Obligations.DoneOk : Prop :=
  (∀ (o : Order) (s : State) (w : Wafer), s.handling.order = some o → s.handling.removals = [] →
    waferAt s o.wafer = some w →
    let moved := moveWafer o.wafer o.dst { s with handling := { s.handling with order := none } }
    let idle := fun t : State => { t with handling := { t.handling with state := .idle, runDue := true } }
    (o.dst = .armU ∨ o.dst = .armL ∨ o.dst = .ll →
      exec (.done o.tag .ok) s = .next (finish (idle moved))) ∧
    (o.dst = .pa → w.phase ≠ .toPA → exec (.done o.tag .ok) s = .next (finish (idle moved))) ∧
    (o.dst = .pa → w.phase = .toPA →
      let p := updWafer o.wafer (fun x => { x with phase := .prealigning }) moved
      exec (.done o.tag .ok) s = .next (finish (idle
        { p with handling := { p.handling with prealign := some (o.wafer, paramNat s 2) } }))) ∧
    (o.dst = .slot → exec (.done o.tag .ok) s = .next (finish (idle (settleHome o.wafer moved)))) ∧
    (o.dst = .stage →
      let shown := postEvent .waferOnStage (some o.wafer) w.lotNumber 0 moved
      exec (.done o.tag .ok) s = .next (finish (idle
        (if w.phase = .prealigned then startAlign o.wafer shown else shown))))) ∧
  (∀ (i : Nat) (s : State) (w : Wafer), waferAt s i = some w →
    startAlign i s = postEvent .alignRequest (some i)
      (match w.prealign with | none => 0 | some p => p.notch)
      (match w.prealign with | none => 0 | some p => word (p.offsetX.toNat + 65536 * p.offsetY.toNat))
      (updWafer i (fun x => { x with
        phase := .aligning
        align := { x.align with
          state := .collecting, kind := .first, primary := none, secondary := none, checks := [], used := 0 } }) s))

/-- DONE without success (R25, R26): FAULT, and a second NOT_PICKED or NOT_PLACED, make the wafer UNKNOWN and handling
HALTED with HANDLER_HALT; a first one sends the order again with the next tag, attempt RETRY and a new timer, unless
the wafer was cut while its pick from the slot was in flight, which is home at once, or the part is RESETTING, when
nothing is sent and the wafer stays at the order's source, also where a carrier removal waits on the order (R47). That
handling is IDLE from that moment on is the model's reading (log 40). -/
def Obligations.DoneFailed : Prop :=
  ∀ (o : Order) (r : DoneResult) (s : State) (w : Wafer), NoRunDue s → s.handling.order = some o →
    waferAt s o.wafer = some w →
    let cleared := { s with handling := { s.handling with order := none } }
    let lost := moveWafer o.wafer .unknown cleared
    let halted := fun reason : Word => postEvent .handlerHalt (some o.wafer) reason (word o.tag.toNat)
      { lost with handling := { lost.handling with state := .halted } }
    let cut := o.kind = .pick ∧ o.src = .slot ∧ w.phase = .reviewDone
    let alone := s.handling.removals = []
    (alone → exec (.done o.tag .fault) s = .next (halted 1)) ∧
    (r = .notPicked ∨ r = .notPlaced →
      (o.retry = true → alone → exec (.done o.tag r) s = .next (halted 3)) ∧
      (o.retry = false → alone → ¬ cut → s.cmd.resetting = false → exec (.done o.tag r) s = .next
        { s with
          out := .order (s.handling.tag + 1) o.kind o.wafer o.src o.dst o.arm :: s.out
          handling := { s.handling with
            tag := s.handling.tag + 1
            state := .busy
            order := some { o with
              tag := s.handling.tag + 1
              retry := true
              timer := match o.kind with
                | .transfer => paramNat s 1
                | .pick => paramNat s 0
                | .place => paramNat s 0 } } }) ∧
      (o.retry = false → (alone ∧ cut) ∨ s.cmd.resetting = true →
        let home := settleHome o.wafer cleared
        exec (.done o.tag r) s = .next (finish
          { home with handling := { home.handling with state := .idle, runDue := true } })))

/-- ORDER_TIMER_EXPIRY (R27): the wafer becomes UNKNOWN, handling HALTED with reason TIMEOUT, and the order is the
last expired one, also where a carrier removal waits on it (R45), which is done with, while RESETTING too (log 40);
that the row changes nothing with no order, or one whose timer has not run out, is the model's reading (log 6). A late
DONE (R28): LATE_COMPLETION is posted, with the wafer of the last expired order where the tag is that order's, and
nothing else changes. -/
def Obligations.OrderTimerExpiry : Prop :=
  (∀ (s : State), NoRunDue s → s.handling.removals = [] →
     (∀ o w, s.handling.order = some o → o.timer = 0 → waferAt s o.wafer = some w →
       let lost := moveWafer o.wafer .unknown { s with handling := { s.handling with order := none } }
       exec .orderTimerExpiry s = .next (postEvent .handlerHalt (some o.wafer) 2 (word o.tag.toNat)
         { lost with handling := { lost.handling with state := .halted, lastExpired := some (o.tag, o.wafer) } })) ∧
     ((∀ o, s.handling.order = some o → o.timer ≠ 0) → exec .orderTimerExpiry s = .next s)) ∧
  (∀ (o : Order) (s : State) (w : Wafer), NoRunDue s → s.handling.removals ≠ [] → s.handling.order = some o →
     o.timer = 0 → o.wafer < 50 → waferAt s o.wafer = some w →
     let lost := moveWafer o.wafer .unknown { s with handling := { s.handling with order := none } }
     exec .orderTimerExpiry s = .next (postEvent .handlerHalt (some o.wafer) 2 (word o.tag.toNat)
       { lost with handling := { lost.handling with
         state := .halted, removals := [], lastExpired := some (o.tag, o.wafer) } })) ∧
  (∀ (tag : BitVec 8) (r : DoneResult) (s : State), NoRunDue s →
     (∀ o, s.handling.order = some o → o.tag ≠ tag) →
     exec (.done tag r) s = .next (postEvent .lateCompletion
       (match s.handling.lastExpired with
         | some e => if e.1 = tag then some e.2 else none
         | none => none)
       (word tag.toNat)
       (match r with | .ok => 0 | .notPicked => 1 | .notPlaced => 2 | .fault => 3) s))

/-- PREALIGNED (R33): for the wafer of the prealignment in progress the result is stored, a PREALIGNING wafer becomes
PREALIGNED, the prealignment is cleared and the planner runs; any other message is ignored. PREALIGN_FAIL and the
expiry of the prealign timer (R34): the PREALIGNING wafer's review ends with PREALIGN_FAILED, PREALIGN_ERROR is posted
with cause 1 or 2, and the planner runs; without its prealignment either is ignored. That the
expiry row changes nothing while its timer has time left is the model's reading (log 6). -/
def Obligations.PrealignEnds : Prop :=
  (∀ (wafer : BitVec 8) (notch : Word) (x y : BitVec 16) (s : State), NoRunDue s →
     (∀ t, s.handling.prealign = some (wafer.toNat, t) →
       exec (.prealigned wafer notch x y) s = .next (finish
         { updWafer wafer.toNat (fun w => { w with
             prealign := some ⟨notch, x, y⟩
             phase := if w.phase = .prealigning then .prealigned else w.phase }) s with
           handling := { s.handling with prealign := none, runDue := true } })) ∧
     ((∀ p, s.handling.prealign = some p → p.1 ≠ wafer.toNat) →
       exec (.prealigned wafer notch x y) s = .next s)) ∧
  (∀ (wafer : BitVec 8) (s : State), NoRunDue s →
     let failed := fun (i : Nat) (cause : Word) =>
       postEvent .prealignError (some i) cause 0
         (enterReviewDone i .prealignFailed { s with handling := { s.handling with prealign := none } })
     let planned := fun t : State => finish { t with handling := { t.handling with runDue := true } }
     (∀ i t w, s.handling.prealign = some (i, t) → waferAt s i = some w → w.phase = .prealigning →
       (i = wafer.toNat → exec (.prealignFail wafer) s = .next (planned (failed i 1))) ∧
       (t = 0 → exec .prealignTimerExpiry s = .next (planned (failed i 2)))) ∧
     ((∀ p, s.handling.prealign = some p → p.1 ≠ wafer.toNat) → exec (.prealignFail wafer) s = .next s) ∧
     ((∀ p, s.handling.prealign = some p → p.2 ≠ 0) → exec .prealignTimerExpiry s = .next s))

/-- PORT (R41): a message that repeats the raw pair changes nothing; another sets it, and starts the debounce timer at
20 ms or, where it gives the debounced pair again, stops it; open without present is neither. SLOTMAP (R42): taken for
a port whose debounced pair is open, where it replaces the slot map, and ignored otherwise. -/
def Obligations.PortMessages : Prop :=
  (∀ (p : Port) (present opened : Bool) (s : State), NoRunDue s →
     let q := portState s p
     let raw : PortPair := ⟨present, present && opened⟩
     let q' := { q with raw := raw, timer := if raw = q.debounced then none else some 20 }
     (raw = q.raw → exec (.port p present opened) s = .next s) ∧
     (raw ≠ q.raw → exec (.port p present opened) s = .next { s with handling := (match p with
       | .one => { s.handling with port1 := q' }
       | .two => { s.handling with port2 := q' }) })) ∧
  (∀ (p : Port) (flags : BitVec 25) (s : State), NoRunDue s →
     ((portState s p).debounced.opened = false → exec (.slotmap p flags) s = .next s) ∧
     ((portState s p).debounced.opened = true → exec (.slotmap p flags) s = .next { s with handling := (match p with
       | .one => { s.handling with port1 := { s.handling.port1 with slotMap := some flags } }
       | .two => { s.handling with port2 := { s.handling.port2 with slotMap := some flags } }) }))

/-- DEBOUNCE_TIMER_EXPIRY (R41 to R44, R47): the debounced pair takes the raw pair; the slot map stays only where the
port was open and is; a port that closes, and then a carrier that goes, has its effect unless RESETTING; a port that
opens runs the planner. That the row changes nothing before its timer
has run out is the model's reading (log 6). A port that closes with wafers of its lot out of
their slots posts PORT_CLOSED with their number, and without them changes nothing. -/
def Obligations.DebounceTimerExpiry : Prop :=
  ∀ (p : Port) (s : State), NoRunDue s →
    let q := portState s p
    let was := q.debounced
    let now := q.raw
    let s1 := setPort p { q with
      debounced := now, timer := none
      slotMap := if was.opened = true ∧ now.opened = true then q.slotMap else none } s
    let s2 := if was.opened = true ∧ now.opened = false ∧ s.cmd.resetting = false then portClosed p s1 else s1
    let s3 := if was.present = true ∧ now.present = false ∧ s.cmd.resetting = false then carrierRemoved p s2 else s2
    (q.timer = some 0 → exec (.debounceTimerExpiry p) s = .next (finish
      (if was.opened = false ∧ now.opened = true
        then { s3 with handling := { s3.handling with runDue := true } } else s3))) ∧
    (q.timer ≠ some 0 → exec (.debounceTimerExpiry p) s = .next s) ∧
    (∀ l, lotOnPort s p = some l →
      let n := (List.range 50).countP fun i => (waferAt s i).any fun w => w.run == l.run && w.location != .slot
      portClosed p s = if n = 0 then s else postEvent .portClosed none (word (portNumber p)) (word n) s) ∧
    (lotOnPort s p = none → portClosed p s = s)

/-! ## Alignment arithmetic, marks and drift -/

/-- Rounding (00_scope.md): to the nearest integer, and a tie away from zero. -/
def Obligations.RoundingIsNearest : Prop :=
  ∀ (n : Int) (d : Nat), 0 < d →
    let r := roundDiv n d
    2 * (d * r - n).natAbs ≤ d ∧ (2 * (d * r - n).natAbs = d → n.natAbs < (d * r).natAbs) ∧
    roundDiv (-n) d = -r

/-- R54: the coefficients of two marks are the rounded quotients of the dot and cross products by the squared length;
a wafer placed and scaled perfectly gives 2^30 and 0. -/
def Obligations.TransformCoefficients : Prop :=
  ∀ (p q : Mark),
    let d : Point := ⟨q.design.x - p.design.x, q.design.y - p.design.y⟩
    let m : Point := ⟨q.measured.x - p.measured.x, q.measured.y - p.measured.y⟩
    let n := (d.x * d.x + d.y * d.y).toNat
    (transformOf p q).a = roundDiv (2 ^ 30 * (d.x * m.x + d.y * m.y)) n ∧
    (transformOf p q).b = roundDiv (2 ^ 30 * (d.x * m.y - d.y * m.x)) n ∧
    (transformOf p q).pd = p.design ∧ (transformOf p q).pm = p.measured ∧
    (m = d → d ≠ ⟨0, 0⟩ → (transformOf p q).a = 1073741824 ∧ (transformOf p q).b = 0)

/-- The verdict of a closed attempt (R52, R53, R55 to R57): the four tests in their order, and for an accepted one the
transform of R54; a transform put in force is always in range. -/
def Obligations.VerdictTests : Prop :=
  ∀ (al : Align) (tol : Int),
    (al.primary = none ∨ al.secondary = none → judge al tol = (.incomplete, none)) ∧
    (∀ p q, al.primary = some p → al.secondary = some q →
      let dx := q.design.x - p.design.x
      let dy := q.design.y - p.design.y
      let t := transformOf p q
      let close := dx * dx + dy * dy < 2500000000000000
      let range := -1073742 ≤ t.a - 1073741824 ∧ t.a - 1073741824 ≤ 1073742 ∧
        -10737418 ≤ t.b ∧ t.b ≤ 10737418
      let image := fun w : Point => (⟨
        t.pm.x + roundDiv (t.a * (w.x - t.pd.x) - t.b * (w.y - t.pd.y)) 1073741824,
        t.pm.y + roundDiv (t.b * (w.x - t.pd.x) + t.a * (w.y - t.pd.y)) 1073741824⟩ : Point)
      let checked := ∀ c ∈ al.checks,
        ((c.measured.x - (image c.design).x).natAbs : Int) ≤ tol ∧
        ((c.measured.y - (image c.design).y).natAbs : Int) ≤ tol
      (close → judge al tol = (.marksTooClose, none)) ∧
      (¬ close → ¬ range → judge al tol = (.coeffRange, none)) ∧
      (¬ close → range → ¬ checked → judge al tol = (.checkFailed, none)) ∧
      (¬ close → range → checked → judge al tol = (.accepted, some t)))

/-- What a verdict does (R58, R59): an accepted transform goes in force with drift (0, 0) and ALIGN_ACCEPTED, and a
first alignment makes the wafer REVIEWING; a refusal counts, posts ALIGN_REFUSED and opens the next attempt, and the
third ends the review with ALIGN_FAILED. The four refusals have the numbers 1 to 4 of ALIGN_REFUSED (R200), in the order
of the tests, whatever the third is called (log 20). -/
def Obligations.VerdictTakesEffect : Prop :=
  (∀ (i : Nat) (s : State) (w : Wafer) (v : Verdict) (t : Transform), waferAt s i = some w →
    let noMarks := fun al : Align => { al with primary := none, secondary := none, checks := [] }
    let freed := fun s : State => { s with visit := { s.visit with hold := { s.visit.hold with
      align := s.visit.hold.align.filter fun j => j != i } } }
    let refused := postEvent .alignRefused (some i) (word (refusalNumber v)) (word (w.align.used + 1))
      (updWafer i (fun x => { x with align := { noMarks x.align with
        state := if w.align.used < 2 then .collecting else .none
        lastVerdict := some v, used := w.align.used + 1 } }) s)
    (judge w.align (param s 3) = (.accepted, some t) →
      let shown := postEvent .alignAccepted (some i) (wordOfInt t.a) (wordOfInt t.b)
        (updWafer i (fun x => { x with
          transform := some t, drift := ⟨0, 0⟩
          align := { noMarks x.align with state := .none, lastVerdict := some .accepted }
          phase := if x.align.kind = .first ∧ x.phase = .aligning then .reviewing else x.phase }) s)
      giveVerdict i s = if w.align.kind = .realign then freed shown else shown) ∧
    (judge w.align (param s 3) = (v, none) → w.align.used < 2 → giveVerdict i s = refused) ∧
    (judge w.align (param s 3) = (v, none) → w.align.used = 2 → w.phase = .aligning ∨ w.phase = .reviewing →
      giveVerdict i s = enterReviewDone i .alignFailed
        (if w.align.kind = .realign then freed refused else refused))) ∧
  [Verdict.incomplete, .marksTooClose, .coeffRange, .checkFailed].map refusalNumber = [1, 2, 3, 4]

/-- MARK_RECORD (R50, R51, R68): the record's answer is the first test that holds, queued as an ACCEPT job in the place
of the FETCH; an ACCEPTED mark joins the marks held; a last flag that closes a COLLECTING attempt gives the verdict,
or lets it wait for the visit in flight. While RESETTING the record is discarded. The fields of a mark record (R187), and
the place in the marks held that its role gives. -/
def Obligations.MarkRecordAnswered : Prop :=
  (∀ (s : State) (slot : Nat) (seq : Byte) (last : Bool), NoRunDue s →
    fetchedSlot s .marks = some (slot, seq, last) →
    let r := MarkRecord.ofWords (headWords s)
    let w := waferAt s r.wafer
    let st : AttemptState := (w.map (·.align.state)).getD .none
    let full := st = .closeWaiting ∨ ∃ x, w = some x ∧
      ((r.role = 0 ∧ x.align.primary ≠ none) ∨ (r.role = 1 ∧ x.align.secondary ≠ none) ∨
        (r.role = 2 ∧ 2 ≤ x.align.checks.length))
    let answered := fun c : AcceptCode => pushJob (acceptJob slot c seq 0) (finishHead s)
    let closed := fun t : State => finish (dispatch
      (if (s.visit.current.any fun v => v.wafer == r.wafer)
        then updWafer r.wafer (fun x => { x with align := { x.align with state := .closeWaiting } }) t
        else giveVerdict r.wafer t))
    let good := r.wafer ≤ 49 ∧ r.role ≤ 2
    let open' := st ≠ .none ∧ ∀ x, w = some x → x.aborting = false
    let joined := updWafer r.wafer (fun x => { x with align := addMark r x.align }) (answered .accepted)
    (s.cmd.resetting = true → exec .markRecord s = .next (finishHead s)) ∧
    (s.cmd.resetting = false → ¬ good → exec .markRecord s = .next (answered .badField)) ∧
    (s.cmd.resetting = false → good → ¬ open' → exec .markRecord s = .next (answered .notAligning)) ∧
    (s.cmd.resetting = false → good → open' → full →
      exec .markRecord s = .next
        (if last && st == .collecting then closed (answered .markExcess) else answered .markExcess)) ∧
    (s.cmd.resetting = false → good → open' → ¬ full →
      exec .markRecord s = .next (if last = true then closed joined else joined))) ∧
  (∀ w1 w2 w3 w4 w5 w6 : Word, MarkRecord.ofWords [w1, w2, w3, w4, w5, w6] =
     ⟨w1.toNat % 256, w1.toNat / 256 % 256, ⟨⟨w2.toInt, w3.toInt⟩, ⟨w4.toInt, w5.toInt⟩⟩⟩) ∧
  (∀ (r : MarkRecord) (al : Align),
     (r.role = 0 → addMark r al = { al with primary := some r.mark }) ∧
     (r.role = 1 → addMark r al = { al with secondary := some r.mark }) ∧
     (r.role = 2 → addMark r al = { al with checks := al.checks ++ [r.mark] }))

/-- The drift update of a visit that ended DONE (R63 to R65): each component moves by the rounded product of gain and
difference and is clamped to ±5,000 nm; an offset component beyond ±20,000 nm, or a result not found, moves nothing; a
component at the threshold starts a realignment of a REVIEWING wafer with no attempt open. -/
def Obligations.DriftUpdate : Prop :=
  ∀ (i : Nat) (r : ResultPart) (s : State) (w : Wafer), waferAt s i = some w →
    let k := param s 4
    let moved := fun d o : Int =>
      let n := d + roundDiv ((o - d) * k) 16
      if n < -5000 then -5000 else if 5000 < n then 5000 else n
    let d : Point := ⟨moved w.drift.x r.offset.x, moved w.drift.y r.offset.y⟩
    let inWindow := r.found = true ∧ -20000 ≤ r.offset.x ∧ r.offset.x ≤ 20000 ∧
      -20000 ≤ r.offset.y ∧ r.offset.y ≤ 20000
    let u := updWafer i (fun x => { x with drift := d }) s
    let due := (param s 5 ≤ d.x.natAbs ∨ param s 5 ≤ d.y.natAbs) ∧ w.align.state = .none ∧
      w.aborting = false ∧ w.phase = .reviewing
    (¬ inWindow → driftUpdate i r s = s) ∧
    (inWindow → ¬ due → driftUpdate i r s = u) ∧
    (inWindow → due → driftUpdate i r s = postEvent .realignNeeded (some i) 1 (packPair d.x d.y)
      { updWafer i (fun x => { x with align := { x.align with
          state := .collecting, primary := none, secondary := none, checks := [], kind := .realign, used := 0 } }) u
        with visit := { s.visit with hold := { s.visit.hold with align := some i } } })

/-! ## The revisit table -/

/-- INTAKE_RECORD (R70 to R74, R89): the answer is the first test that holds, queued as an ACCEPT job in the place of
the FETCH; an ACCEPTED record becomes a QUEUED entry in the lowest free place, with the
wafer's next arrival number, and the dispatcher tests its conditions where
its wafer is on the stage. While RESETTING the record is discarded. The fields of an intake record, and the codes of the
answers to the three kinds of record (R187). -/
def Obligations.IntakeRecordAnswered : Prop :=
  (∀ (s : State) (slot : Nat) (seq : Byte) (last : Bool), NoRunDue s →
    fetchedSlot s .intake = some (slot, seq, last) →
    let r := IntakeRecord.ofWords (headWords s)
    let good := r.wafer ≤ 49 ∧ r.roughClass ≤ 15 ∧ r.priority ≤ 3 ∧ 0 ≤ r.inDie.x ∧ r.inDie.x ≤ 60000000 ∧
      0 ≤ r.inDie.y ∧ r.inDie.y ≤ 60000000 ∧ 0 ≤ r.size.toInt
    let answered := fun (c : AcceptCode) (entry : Nat) => pushJob (acceptJob slot c seq entry) (finishHead s)
    let isClosed := fun w : Wafer => w.phase = .reviewDone ∨ w.phase = .returned ∨ w.outcome ≠ none
    let held := (s.table.filter fun e => e.wafer == r.wafer).length
    let n := lowestFree s.table 0
    (s.cmd.resetting = true → exec .intakeRecord s = .next (finishHead s)) ∧
    (s.cmd.resetting = false → ¬ good → exec .intakeRecord s = .next (answered .badField 0)) ∧
    (s.cmd.resetting = false → good → waferAt s r.wafer = none →
      exec .intakeRecord s = .next (answered .notInLot 0)) ∧
    (∀ w, s.cmd.resetting = false → good → waferAt s r.wafer = some w →
      (isClosed w → exec .intakeRecord s = .next (answered .waferClosed 0)) ∧
      (∀ e, ¬ isClosed w → s.table.find? (fun e => e.wafer == r.wafer && e.defectId == r.defectId) = some e →
        exec .intakeRecord s = .next (answered .duplicate e.index)) ∧
      (¬ isClosed w → (∀ e ∈ s.table, e.wafer = r.wafer → e.defectId ≠ r.defectId) →
        (1024 ≤ held → exec .intakeRecord s = .next (answered .waferFull 0)) ∧
        (held < 1024 → 2048 ≤ s.table.length → exec .intakeRecord s = .next (answered .tableFull 0)) ∧
        (held < 1024 → s.table.length < 2048 →
          let joined := insertSorted (fun a b => decide (a.index ≤ b.index)) (⟨n, r.wafer, r.defectId,
            r.col, r.row, r.inDie, r.size, r.roughClass, r.priority, w.nextArrival, .queued, 0, false, none, none⟩ : Entry) s.table
          let u := updWafer r.wafer (fun x => { x with
              nextArrival := x.nextArrival + 1
              acc := x.acc.map fun a => { a with accepted := min 1024 (a.accepted + 1) } })
            { answered .accepted n with table := joined }
          exec .intakeRecord s = .next (finish (if stageWafer s = some r.wafer then dispatch u else u)))))) ∧
  (∀ w1 w2 w3 w4 w5 w6 : Word,
     let r := IntakeRecord.ofWords [w1, w2, w3, w4, w5, w6]
     r.wafer = w1.toNat % 256 ∧ r.roughClass = w1.toNat / 256 % 256 ∧ r.priority = w1.toNat / 65536 % 256 ∧
     r.defectId = w2 ∧ r.col = (w3.extractLsb' 0 16).toInt ∧ r.row = (w3.extractLsb' 16 16).toInt ∧
     r.inDie = ⟨w4.toInt, w5.toInt⟩ ∧ r.size = w6) ∧
  [AcceptCode.accepted, .badField, .notInLot, .waferClosed, .duplicate, .waferFull, .tableFull, .notAligning, .markExcess,
    .late, .noVisit].map AcceptCode.code = [1, 2, 3, 4, 5, 6, 7, 8, 9, 10, 11]

/-- The place of a new entry (R69, R73): free, within the table, and the lowest such. -/
def Obligations.LowestFreePlace : Prop :=
  ∀ s : State, RevisitTable s → s.table.length < 2048 →
    let n := lowestFree s.table 0
    n < 2048 ∧ entryAt s n = none ∧ ∀ k, k < n → entryAt s k ≠ none

/-- R78: entry A comes before entry B by the first key in which they differ; no two entries of one wafer tie, the
relation is an order, and the queued list of a wafer is its queued entries in that order. -/
def Obligations.ReviewOrder : Prop :=
  (∀ a b : Entry,
    let odd := a.row % 2 = 1
    comesBefore a b = true ↔
      (b.priority < a.priority) ∨
      (a.priority = b.priority ∧ a.row < b.row) ∨
      (a.priority = b.priority ∧ a.row = b.row ∧ ((¬ odd ∧ a.col < b.col) ∨ (odd ∧ b.col < a.col))) ∨
      (a.priority = b.priority ∧ a.row = b.row ∧ a.col = b.col ∧ a.inDie.y < b.inDie.y) ∨
      (a.priority = b.priority ∧ a.row = b.row ∧ a.col = b.col ∧ a.inDie.y = b.inDie.y ∧
        a.arrival < b.arrival)) ∧
  (∀ a b : Entry, a.arrival ≠ b.arrival → comesBefore a b = true ∨ comesBefore b a = true) ∧
  (∀ a b : Entry, comesBefore a b = true → comesBefore b a = false) ∧
  (∀ a b c : Entry, comesBefore a b = true → comesBefore b c = true → comesBefore a c = true) ∧
  (∀ (s : State) (i : Nat), (∀ e ∈ s.table, ∀ f ∈ s.table, e.wafer = i → f.wafer = i → e ≠ f →
      e.arrival ≠ f.arrival) → s.table.Nodup →
    (∀ e, e ∈ queuedList s i ↔ e ∈ s.table ∧ e.wafer = i ∧ e.state = .queued) ∧
    (queuedList s i).Pairwise fun a b => comesBefore a b = true) ∧
  (∀ (s : State) (i : Nat), dispatchWafer s = some i → stageWafer s = some i)

/-- A take (R80, R81, R85): an entry of a class whose quota is used up is SAMPLED_OUT unless it was dispatched before,
an entry out of travel is OUT_OF_RANGE, and each is handed over; the first other one is visited; with none left, a
wafer whose review end is set completes. The target of an entry (R61, R62): its wafer point under the transform in force,
with the drift added. The dispatcher (R92): with a wafer on the stage that is REVIEWING and not aborting, no visit in
flight, an empty hold set and the part not RESETTING, it makes a take down that wafer's queued list, and else nothing. -/
def Obligations.TakeLooksAtHead : Prop :=
  (∀ (i : Nat) (e : Entry) (es : List Entry) (s : State) (w : Wafer) (st : Settings) (t : Point),
    waferAt s e.wafer = some w → settingsOf s e.wafer = some st → targetOf s e = some t →
    let used := e.dispatched = false ∧ st.quotas.getD e.roughClass 0 ≤ w.classUse.getD e.roughClass 0
    let travel := (t.x.natAbs : Int) ≤ param s 6 ∧ (t.y.natAbs : Int) ≤ param s 6
    (used → takeFrom i (e :: es) s = takeFrom i es (retireEntry .sampledOut e s)) ∧
    (¬ used → ¬ travel → takeFrom i (e :: es) s = takeFrom i es (retireEntry .outOfRange e s)) ∧
    (¬ used → travel → takeFrom i (e :: es) s = beginVisit e t s) ∧
    (∀ x, waferAt s i = some x → takeFrom i [] s =
      if x.reviewEnd = true ∧ x.aborting = false then enterReviewDone i .complete s else s)) ∧
  (∀ (e : Entry) (s : State) (w : Wafer) (st : Settings) (t : Transform),
    waferAt s e.wafer = some w → settingsOf s e.wafer = some st → w.transform = some t →
    let l := st.layout
    let ux := l.origin.x + e.col * l.pitch.x + e.inDie.x - t.pd.x
    let uy := l.origin.y + e.row * l.pitch.y + e.inDie.y - t.pd.y
    targetOf s e = some ⟨t.pm.x + roundDiv (t.a * ux - t.b * uy) 1073741824 + w.drift.x,
      t.pm.y + roundDiv (t.b * ux + t.a * uy) 1073741824 + w.drift.y⟩) ∧
  (∀ s : State,
    let may := fun i : Nat => s.visit.current = none ∧ s.visit.hold = ⟨false, false, none, false⟩ ∧
      s.cmd.resetting = false ∧ stageWafer s = some i ∧
      ∃ w, waferAt s i = some w ∧ w.phase = .reviewing ∧ w.aborting = false
    (∀ i, may i → dispatch s = takeFrom i (queuedList s i) s) ∧ ((∀ i, ¬ may i) → dispatch s = s))

/-! ## Visits -/

/-- The commands on the hold set (R91, R109, R110, R145): REVIEW_SUSPEND adds SUSPEND; REVIEW_RESUME removes SUSPEND
and STAGE, and the dispatcher tests its conditions; GUARD_CLEAR with no HARD trip changes nothing but the status,
with the present height not back in band answers STILL_OUT, and else clears the trip in the order of R145. While a
reason holds the dispatcher, it makes no take (R92). -/
def Obligations.HoldCommands : Prop :=
  (∀ (w : CommandWrite) (s : State), TakesCommands s →
     let shown := fun (c : CommandCode) (u : State) => { u with cmd := { u.cmd with code := c } }
     let hold := s.visit.hold
     let cleared := dispatch { shown .accepted (commandSeen 10 w s) with
       guard := { s.guard with state := .normal }
       visit := { s.visit with hold := { hold with guard := false } } }
     let renewed := wantPlan (refreshOutput cleared)
     exec (.reviewSuspend w) s = .next { shown .accepted (commandSeen 7 w s) with
       visit := { s.visit with hold := { hold with suspend := true } } } ∧
     exec (.reviewResume w) s = .next (finish (dispatch { shown .accepted (commandSeen 8 w s) with
       visit := { s.visit with hold := { hold with suspend := false, stage := false } } })) ∧
     (s.guard.state ≠ .hardTripped → exec (.guardClear w) s = .next (shown .accepted (commandSeen 10 w s))) ∧
     (s.guard.state = .hardTripped → s.guard.inRun < paramNat s 20 →
       exec (.guardClear w) s = .next (shown .stillOut (commandSeen 10 w s))) ∧
     (s.guard.state = .hardTripped → paramNat s 20 ≤ s.guard.inRun →
       exec (.guardClear w) s = .next (finish (postEvent .guardRelease (stageWafer renewed) 2 0 renewed)))) ∧
  (∀ s : State, s.visit.hold ≠ ⟨false, false, none, false⟩ → dispatch s = s)

/-- The visit sequence. The beginning of a visit (R81, R93, R94): its fields, the MOVE with the next tag, ACQUIRING,
and the class counted unless the entry was dispatched before. The predicted output, clamped to the bounds, is kept for
the visit; it is the focus output from now on, and sent where it is a new one, unless the guard holds the output (R117,
R122, R124, R125). A trace starts, or does not, as `startTrace` of `SampleTaken` says (R134). POSITION (R94) replaces
the latest position. ARRIVED (R96, R97, R99): with the tag of the move of a MOVING visit it ends the move and the visit
is SETTLING, or READY at once where focus is locked and settled, with READY_TO_GRAB; a stale one changes nothing.
GRAB_STROBE (R100, R127): a READY visit is GRABBED with the position, the lock and the strobe height of the moment; else
nothing changes. -/
def Obligations.VisitAdvances : Prop :=
  let inState := fun (v : Visit) (st : EntryState) (s : State) =>
    s.table.map fun e => if e.index = v.entry then { e with state := st } else e
  (∀ (e : Entry) (t : Point) (s : State),
     let u := beginVisit e t s
     let p := predict s e.wafer t
     u.visit.current = some ⟨e.index, e.wafer, e.defectId, .moving, t, s.visit.tag + 1, p.1, p.2, none, none,
       false, false, paramNat s 7⟩ ∧
     u.visit.tag = s.visit.tag + 1 ∧ u.visit.move = some (s.visit.tag + 1, t) ∧
     (let held := s.guard.state ≠ .normal
      let lo := if held then s.focus.boundMin else param s 16
      let hi := if held then s.focus.boundMax else param s 17
      let z := p.1 + ((settingsOf s e.wafer).map (·.layout.focusOffset)).getD 0
      let out := if z < lo then lo else if hi < z then hi else z
      let sent := ¬ held ∧ out ≠ s.focus.output
      u.focus = { s.focus with
        state := .acquiring, unsettled := false, run := 0, settle := 0, holdover := 0, accepted := []
        predicted := some out, strobeHeight := none, boundMin := lo, boundMax := hi
        output := if held then s.focus.output else out
        owed := if sent then false else s.focus.owed
        trace := (startTrace e s).focus.trace } ∧
      u.out = .move (s.visit.tag + 1) t.x t.y :: (if sent then [.focusSet out] else []) ++ s.out) ∧
     u.visit.hold = s.visit.hold ∧ u.mem = s.mem ∧
     u.guard = s.guard ∧ u.handling = s.handling ∧
     u.table = (s.table.map fun x => if x.index = e.index then { x with state := .moving, dispatched := true } else x) ∧
     (∀ w, waferAt s e.wafer = some w → waferAt u e.wafer = some (if e.dispatched then w
       else { w with classUse := w.classUse.modify e.roughClass fun n => min 1024 (n + 1) }))) ∧
  (∀ (x y : Word) (s : State), NoRunDue s →
     exec (.position x y) s = .next { s with visit := { s.visit with position := some ⟨x.toInt, y.toInt⟩ } }) ∧
  (∀ (tag : BitVec 8) (x y : Word) (s : State), NoRunDue s →
     (∀ v target, s.visit.current = some v → v.state = .moving → s.visit.move = some (tag, target) →
       let settling := { v with state := .settling, arrival := some ⟨x.toInt, y.toInt⟩, timer := paramNat s 8 }
       let ready := { settling with state := .ready, predictedFocus := false, timer := paramNat s 9 }
       exec (.arrived tag x y) s = .next
         (if s.focus.state = .locked ∧ s.focus.unsettled = false then
           postEvent .readyToGrab (some v.wafer) (word v.entry) v.defectId { s with
             table := inState v .ready s,
             visit := { s.visit with move := none, current := some ready } }
         else { s with
           table := inState v .settling s,
           visit := { s.visit with move := none, current := some settling } })) ∧
     ((∀ v target, s.visit.current = some v → v.state = .moving → s.visit.move ≠ some (tag, target)) →
       exec (.arrived tag x y) s = .next s)) ∧
  (∀ s : State, NoRunDue s →
     (∀ v, s.visit.current = some v → v.state = .ready →
       let locked := s.focus.state == .locked
       let height := roundDiv s.focus.accepted.sum s.focus.accepted.length
       exec .grabStrobe s = .next { s with
         table := inState v .grabbed s,
         focus := { s.focus with strobeHeight := if locked then some height else none },
         visit := { s.visit with current := some { v with
           state := .grabbed
           captured := if s.visit.position = none then v.arrival else s.visit.position
           lockedAtStrobe := locked } } }) ∧
     ((∀ v, s.visit.current = some v → v.state ≠ .ready) → exec .grabStrobe s = .next s))

/-- FAULT of the stage (R106 to R108): the code is kept, STAGE joins the hold set, and STAGE_FAULT is posted. With the
tag of the move of a MOVING visit the move ends and the visit is spoiled, cause 1; otherwise cause 3, and a visit in
SETTLING or READY is spoiled, while one in MOVING or GRABBED runs on. A spoiled visit goes back to the queue with one
retry more, or at two retries ends TIMED_OUT with VISIT_TIMED_OUT, cause 2. -/
def Obligations.StageFaults : Prop :=
  (∀ (tag : BitVec 8) (code : BitVec 16) (s : State),
     let held := { s with visit := { s.visit with
       faultCode := code
       hold := { s.visit.hold with stage := true } } }
     let b := word (tag.toNat + 65536 * code.toNat)
     let stray := postEvent .stageFault (stageWafer s) 3 b held
     (∀ v target, s.visit.current = some v → v.state = .moving → s.visit.move = some (tag, target) →
       exec (.fault tag code) s = .next (finish (spoilVisit v (postEvent .stageFault (some v.wafer) 1 b
         { held with visit := { held.visit with move := none } })))) ∧
     ((∀ v target, s.visit.current = some v → v.state = .moving → s.visit.move ≠ some (tag, target)) →
       exec (.fault tag code) s = .next (finish (match s.visit.current with
         | none => stray
         | some v => if v.state = .settling ∨ v.state = .ready then spoilVisit v stray else stray)))) ∧
  (∀ (v : Visit) (e : Entry) (s : State), entryAt s v.entry = some e →
     (e.retries < 2 → spoilVisit v s = endVisit v none { s with table := s.table.map fun x =>
       if x.index = v.entry then
         { x with state := .queued, retries := x.retries + 1, result := none, visitPart := none }
       else x }) ∧
     (2 ≤ e.retries → spoilVisit v s =
       let posted := postEvent .visitTimedOut (some v.wafer) (word v.entry) 2 s
       endVisit v none { posted with table := s.table.map fun x =>
         if x.index = v.entry then
           { x with state := .timedOut, result := none, visitPart := some ⟨false, v.predictedFocus⟩ }
         else x }))

/-- The timers of a visit. Move (R95, R106): HALT is sent for a move in flight, STAGE joins the hold set, STAGE_FAULT is
posted with cause 2, and the visit is spoiled. Settle (R98): READY with predicted focus in HOLDOVER or LOST where the
height comes from measured points, else the entry is FOCUS_FAILED. Result (R104): the entry is TIMED_OUT, with
VISIT_TIMED_OUT, cause 1. That a row changes nothing without a visit
whose timer has run out in its states is the model's reading (log 6). -/
def Obligations.VisitTimers : Prop :=
  let inState := fun (v : Visit) (st : EntryState) (s : State) =>
    s.table.map fun e => if e.index = v.entry then { e with state := st } else e
  let failed := fun (v : Visit) (st : EntryState) (s : State) =>
    endVisit v none { s with table := s.table.map fun e =>
      if e.index = v.entry then
        { e with state := st, result := none, visitPart := some ⟨false, v.predictedFocus⟩ }
      else e }
  (∀ s : State, NoRunDue s →
     (∀ v, s.visit.current = some v → v.state = .moving → v.timer = 0 →
       let halted := if s.visit.move = none then s
         else { s with out := .halt :: s.out, visit := { s.visit with move := none } }
       exec .moveTimerExpiry s = .next (finish (spoilVisit v
         (postEvent .stageFault (some v.wafer) 2 (word v.moveTag.toNat) { halted with
           visit := { halted.visit with hold := { halted.visit.hold with stage := true } } })))) ∧
     ((∀ v, s.visit.current = some v → v.state ≠ .moving ∨ v.timer ≠ 0) → exec .moveTimerExpiry s = .next s)) ∧
  (∀ s : State, NoRunDue s →
     (∀ v, s.visit.current = some v → v.state = .settling → v.timer = 0 →
       let degrades := (s.focus.state = .holdover ∨ s.focus.state = .lost) ∧
         (v.source = .nearest ∨ v.source = .mapMean)
       let ready := { v with state := .ready, predictedFocus := true, timer := paramNat s 9 }
       (degrades → exec .settleTimerExpiry s =
         .next (postEvent .readyToGrab (some v.wafer) (word v.entry) v.defectId { s with
           table := inState v .ready s,
           visit := { s.visit with current := some ready } })) ∧
       (¬ degrades → exec .settleTimerExpiry s = .next (finish (failed v .focusFailed s)))) ∧
     ((∀ v, s.visit.current = some v → v.state ≠ .settling ∨ v.timer ≠ 0) → exec .settleTimerExpiry s = .next s)) ∧
  (∀ s : State, NoRunDue s →
     (∀ v, s.visit.current = some v → v.state = .ready ∨ v.state = .grabbed → v.timer = 0 →
       exec .resultTimerExpiry s = .next (finish (failed v .timedOut
         (postEvent .visitTimedOut (some v.wafer) (word v.entry) 1 s)))) ∧
     ((∀ v, s.visit.current = some v → (v.state ≠ .ready ∧ v.state ≠ .grabbed) ∨ v.timer ≠ 0) →
       exec .resultTimerExpiry s = .next s))

/-- RESULT_RECORD (R101, R102, R105, R114): the answer is the first test that holds, queued as an ACCEPT job in the
place of the FETCH. An ACCEPTED one is the last result, closes the entry as DONE or NOT_FOUND with its parts, and ends
the visit; any other changes nothing else. While RESETTING the record is discarded. The end of a visit (R103): its fields
are cleared and the focus unit is IDLE, with a trace in progress ended; the drift is updated (R63); a map point is taken
at the captured position where focus was locked at the strobe; an entry that became terminal is counted in its wafer's
accumulators (R82, R147); a verdict that waited is made (R51); a wafer marked as aborting completes its abort (R111);
and the dispatcher tests its conditions. The fields of a RESULT record (R187). -/
def Obligations.ResultRecordAnswered : Prop :=
  (∀ (s : State) (slot : Nat) (seq : Byte) (last : Bool), NoRunDue s →
    fetchedSlot s .results = some (slot, seq, last) →
    let r := ResultRecord.ofWords (headWords s)
    let good := r.wafer ≤ 49 ∧ r.finalClass ≤ 31 ∧ r.found ≤ 1
    let answered := fun (c : AcceptCode) (entry : Nat) => pushJob (acceptJob slot c seq entry) (finishHead s)
    let isOf := fun v : Visit => (v.state = .ready ∨ v.state = .grabbed) ∧ v.wafer = r.wafer ∧ v.defectId = r.defectId
    let late := s.table.find? fun e => e.wafer == r.wafer && e.defectId == r.defectId && e.state == .timedOut
    (s.cmd.resetting = true → exec .resultRecord s = .next (finishHead s)) ∧
    (s.cmd.resetting = false → ¬ good → exec .resultRecord s = .next (answered .badField 0)) ∧
    (∀ v, s.cmd.resetting = false → good → s.visit.current = some v → isOf v →
      let part : ResultPart := ⟨r.finalClass, r.found == 1, r.offset⟩
      exec .resultRecord s = .next (finish (endVisit v (some part) { answered .accepted v.entry with
        visit := { s.visit with
          lastResult := some ⟨v.entry, r.found == 1, r.finalClass, r.offset, r.quality⟩ }
        table := s.table.map fun e =>
          if e.index = v.entry then
            { e with
              state := if r.found = 1 then .done else .notFound
              result := some part
              visitPart := some ⟨v.state == .ready, v.predictedFocus⟩ }
          else e }))) ∧
    (s.cmd.resetting = false → good → (∀ v, s.visit.current = some v → ¬ isOf v) →
      (∀ e, late = some e → exec .resultRecord s = .next (answered .late e.index)) ∧
      (late = none → exec .resultRecord s = .next (answered .noVisit 0)))) ∧
  (∀ (v : Visit) (r : Option ResultPart) (s : State),
    let told := endTrace { s with
      visit := { s.visit with current := none }
      focus := { s.focus with
        state := .idle, unsettled := false, run := 0, settle := 0, holdover := 0, accepted := []
        predicted := none, strobeHeight := none } }
    let drifted := match r with
      | none => told
      | some p => driftUpdate v.wafer p told
    let mapped := match r, v.captured, s.focus.strobeHeight with
      | some _, some pos, some z =>
        if v.lockedAtStrobe then
          { drifted with focus := { drifted.focus with map := insertPoint drifted.focus.map ⟨pos, z⟩ } }
        else drifted
      | _, _, _ => drifted
    let handed := match entryAt mapped v.entry with
      | none => mapped
      | some e =>
        if e.state = .queued ∨ e.state = .moving ∨ e.state = .settling ∨ e.state = .ready ∨ e.state = .grabbed
        then mapped
        else updWafer e.wafer (fun x => { x with acc := x.acc.map (countEntry e) }) mapped
    let judged := match waferAt handed v.wafer with
      | none => handed
      | some w => if w.align.state = .closeWaiting then giveVerdict v.wafer handed else handed
    let aborted := match waferAt judged v.wafer with
      | none => judged
      | some w =>
        if w.aborting = true ∧ (w.phase = .aligning ∨ w.phase = .reviewing)
        then enterReviewDone v.wafer .aborted judged
        else judged
    endVisit v r s = dispatch aborted) ∧
  (∀ (e : Entry) (a : WaferAcc),
    let b := countEntry e a
    let up := fun (c : Bool) (n : Nat) => if c then min 1024 (n + 1) else n
    b.accepted = a.accepted ∧ b.done = up (e.state == .done) a.done ∧
    b.notFound = up (e.state == .notFound) a.notFound ∧ b.sampledOut = up (e.state == .sampledOut) a.sampledOut ∧
    b.skipped = up (e.state == .skipped) a.skipped ∧ b.outOfRange = up (e.state == .outOfRange) a.outOfRange ∧
    b.timedOut = up (e.state == .timedOut) a.timedOut ∧
    b.focusFailed = up (e.state == .focusFailed) a.focusFailed ∧
    b.predictedFocus = up (e.visitPart.any (·.predictedFocus)) a.predictedFocus ∧
    b.noStrobe = up (e.visitPart.any (·.noStrobe)) a.noStrobe ∧
    (∀ r, e.state = .done → e.result = some r →
      b.classCounts = a.classCounts.modify r.finalClass fun n => min 1024 (n + 1)) ∧
    (e.state ≠ .done → b.classCounts = a.classCounts)) ∧
  (∀ w1 w2 w3 w4 w5 w6 : Word,
    let r := ResultRecord.ofWords [w1, w2, w3, w4, w5, w6]
    r.wafer = w1.toNat % 256 ∧ r.finalClass = w1.toNat / 256 % 256 ∧ r.found = w1.toNat / 65536 % 256 ∧
    r.quality = w1.toNat / 16777216 ∧ r.defectId = w2 ∧ r.offset = ⟨w3.toInt, w4.toInt⟩)

/-! ## Focus and the height guard -/

/-- The focus output (R122 to R125): while the guard holds it nothing changes; otherwise the bounds are renewed, the
value is clamped to them, and a value other than the present one is sent. The bounds are never crossed and 0 lies
within them. What each focus state calls for. Where
a bound changes in the parameter copy, the present output is set again within the new bounds. -/
def Obligations.FocusOutput : Prop :=
  (∀ (v : Int) (s : State),
     let lo := param s 16
     let hi := param s 17
     let c := if v < lo then lo else if hi < v then hi else v
     lo ≤ 0 ∧ 0 ≤ hi ∧
     (s.guard.state ≠ .normal → setOutput v s = s) ∧
     (s.guard.state = .normal → c = s.focus.output →
       setOutput v s = { s with focus := { s.focus with boundMin := lo, boundMax := hi } }) ∧
     (s.guard.state = .normal → c ≠ s.focus.output →
       setOutput v s = { s with
         focus := { s.focus with boundMin := lo, boundMax := hi, output := c, owed := false }
         out := .focusSet c :: s.out })) ∧
  (∀ s : State, reclampOutput s = setOutput s.focus.output s) ∧
  (∀ (s : State) (z : Int),
     (s.focus.state = .idle → calledFor s = s.focus.output) ∧
     (s.focus.state = .acquiring ∨ s.focus.state = .holdover ∨ s.focus.state = .lost →
       s.focus.predicted = some z → calledFor s = z) ∧
     (∀ v w l st, s.focus.state = .locked → s.visit.current = some v → waferAt s v.wafer = some w →
       lotOfRun s w.run = some l → l.settings = some st →
       calledFor s = roundDiv s.focus.accepted.sum s.focus.accepted.length + st.layout.focusOffset))

/-- The focus map and the prediction (R128, R131 to R133): what inserting a point leaves in the map, which points a
prediction uses, and where it falls back. The points used are the nearest of those within the radius, at most four, in
order of their distance, and among points at the same distance the newer one comes before the older one; at distance 0
the first of them, so the newest, gives the height alone. -/
def Obligations.FocusPrediction : Prop :=
  (∀ (map : List MapPoint) (p : MapPoint),
     let du := fun q : MapPoint => roundDiv (p.pos.x - q.pos.x) 1000
     let dv := fun q : MapPoint => roundDiv (p.pos.y - q.pos.y) 1000
     let kept := map.filter fun q => decide (250000 ≤ du q * du q + dv q * dv q)
     (kept.length < map.length ∨ map.length < 64 → insertPoint map p = kept ++ [p]) ∧
     (kept.length = map.length → 64 ≤ map.length → insertPoint map p = map.tail ++ [p]) ∧
     (map.length ≤ 64 → (insertPoint map p).length ≤ 64)) ∧
  (∀ (s : State) (i : Nat) (t : Point) (w : Wafer) (l : Lot) (st : Settings), waferAt s i = some w →
     lotOfRun s w.run = some l → l.settings = some st →
     let r := paramNat s 15
     let near := fun p : MapPoint => distance2 t p.pos ≤ r * r
     (∀ d, s.focus.map = [] → s.focus.seed = some d → d.run = w.run → predict s i t = (d.z, .lotSeed)) ∧
     (s.focus.map = [] → (∀ d, s.focus.seed = some d → d.run ≠ w.run) →
       predict s i t = (st.layout.nominalZ, .nominal)) ∧
     (s.focus.map ≠ [] → (∀ p ∈ s.focus.map, ¬ near p) →
       predict s i t = (roundDiv (s.focus.map.map (·.z)).sum s.focus.map.length, .mapMean)) ∧
     ((∃ p ∈ s.focus.map, near p) →
       let used := candidates s.focus.map t r
       predict s i t = (weighted used, .nearest) ∧ used ≠ [] ∧ used.length ≤ 4 ∧
       (∀ c ∈ used, ∃ p ∈ s.focus.map, near p ∧ c = (distance2 t p.pos, p.z)) ∧
       (∀ p ∈ s.focus.map, near p → (distance2 t p.pos, p.z) ∈ used ∨
         (used.length = 4 ∧ ∀ c ∈ used, c.1 ≤ distance2 t p.pos)))) ∧
  (∀ (map : List MapPoint) (t : Point) (r : Nat),
     let d := fun k : Nat => distance2 t (map.getD k ⟨⟨0, 0⟩, 0⟩).pos
     let comesFirst := fun j k : Nat => d j < d k ∨ (d j = d k ∧ k < j)
     let near := fun k : Nat => k < map.length ∧ d k ≤ r * r
     ∃ places : List Nat,
       candidates map t r = places.map (fun k => (d k, (map.getD k ⟨⟨0, 0⟩, 0⟩).z)) ∧
       places.Pairwise comesFirst ∧ (∀ k ∈ places, near k) ∧
       ∀ k, near k → k ∉ places → places.length = 4 ∧ ∀ j ∈ places, comesFirst j k) ∧
  (∀ p q : Point,
     let du := roundDiv (p.x - q.x) 1000
     let dv := roundDiv (p.y - q.y) 1000
     (distance2 p q : Int) = du * du + dv * dv) ∧
  (∀ cs : List (Nat × Int),
     let weight : Nat × Int → Nat := fun c => 2 ^ 32 / c.1
     let total := (cs.map weight).sum
     (∀ z cs', cs = (0, z) :: cs' → weighted cs = z) ∧
     ((∀ c ∈ cs, c.1 ≠ 0) → total ≠ 0 →
       weighted cs = roundDiv (cs.map fun c => (weight c : Int) * c.2).sum total) ∧
     ((∀ c ∈ cs, c.1 ≠ 0) → total = 0 → weighted cs = roundDiv (cs.map (·.2)).sum cs.length))

/-- A SAMPLE. One that neither trips nor releases the guard (R115, R140): the guard's runs take a valid sample by its
place in the band, from the first parameter copy on (R139) and so in a later LOADING too, which is the model's reading
(log 32), and the focus unit takes the sample. `focusSample` is the focus unit's part of every sample, also of one
that trips or releases the guard: an owed FOCUS_SET goes out, with a visit in flight too (R137), and before that of a
change of the output by the same sample, which is the model's reading (log 41); and with a visit the lock takes the
sample (R116, R118 to R121); on entry to a state, and on each accepted sample in LOCKED, the output takes the value
called for, so the predicted one in HOLDOVER and LOST, unless the guard holds it (R122 to R125). Entering LOST posts
FOCUS_LOST (R119). The change that makes the focus LOCKED and settled makes a visit in SETTLING READY, with the result
timer started and READY_TO_GRAB posted (R97, R99); the visit and its entry are otherwise as they were, and the other
units as well. The focus trace (R134 to R136): it starts where the class compares as the latched mode asks and the
buffer is free; each sample joins it with the focus state after the lock has taken it, and the 128th ends it; a trace
with samples is handed over as a TRACE report, and one without is dropped. -/
def Obligations.SampleTaken : Prop :=
  (∀ (z : Word) (q : BitVec 8) (s : State), NoRunDue s →
    let valid := param s 10 ≤ q.toNat
    let inside := param s 18 ≤ z.toInt ∧ z.toInt ≤ param s 19
    let g := if s.cmd.paramsValid = true ∧ valid then
      (if inside then { s.guard with inRun := min 255 (s.guard.inRun + 1), outRun := 0 }
        else { s.guard with outRun := min 255 (s.guard.outRun + 1), inRun := 0 })
      else s.guard
    guardAction z q { s with guard := g } = .none →
    exec (.sample z q) s = .next (focusSample z q { s with guard := g })) ∧
  (∀ (z : Word) (q : BitVec 8) (s : State),
    let valid := param s 10 ≤ q.toNat
    let f := s.focus
    let first := if f.owed then [LinkMessage.focusSet f.output] else []
    (s.visit.current = none → focusSample z q s = recordSample z q { s with
      out := first ++ s.out
      focus := { f with owed := false } }) ∧
    (∀ v, s.visit.current = some v →
      let taken := valid ∧ ((z.toInt - v.zPred).natAbs : Int) ≤ param s 11
      let enough := paramNat s 12 ≤ f.run + 1
      let t := focusSample z q s
      let now := t.focus
      let readies := v.state = .settling ∧ now.state = .locked ∧ now.unsettled = false ∧
        (f.state ≠ .locked ∨ f.unsettled = true)
      let loses := f.state ≠ .lost ∧ now.state = .lost
      let posted := if loses then postEvent .focusLost (some v.wafer) (word v.entry) (wordOfInt v.zPred) s
        else if readies then postEvent .readyToGrab (some v.wafer) (word v.entry) v.defectId s else s
      let drives := (now.state = .locked ∨ now.state ≠ f.state) ∧ s.guard.state = .normal
      let goal := clamp (param s 16) (param s 17) (if now.state = .locked
        then roundDiv now.accepted.sum now.accepted.length + ((settingsOf s v.wafer).map (·.layout.focusOffset)).getD 0
        else f.predicted.getD f.output)
      t = { s with
        cmd := posted.cmd
        path := { s.path with jobs := posted.path.jobs, waiters := t.path.waiters }
        visit := t.visit, table := t.table, focus := now, report := t.report, out := t.out } ∧
      (readies →
        t.visit = { s.visit with current := some { v with
          state := .ready, predictedFocus := false, timer := paramNat s 9 } } ∧
        t.table = s.table.map fun e => if e.index = v.entry then { e with state := .ready } else e) ∧
      (¬ readies → t.visit = s.visit ∧ t.table = s.table) ∧
      (taken → now.accepted = (f.accepted ++ [z.toInt]).drop (f.accepted.length + 1 - 4)) ∧
      (¬ taken → now.accepted = f.accepted) ∧
      (f.state = .acquiring → taken → enough → now.state = .locked ∧ now.unsettled = false) ∧
      (f.state = .acquiring → taken → ¬ enough → now.state = .acquiring ∧ now.run = f.run + 1) ∧
      (f.state = .lost → taken → enough →
        now.state = .locked ∧ now.settle = 0 ∧ (now.unsettled = true ↔ paramNat s 13 ≠ 0)) ∧
      (f.state = .lost → taken → ¬ enough → now.state = .lost ∧ now.run = f.run + 1) ∧
      (f.state = .acquiring ∨ f.state = .lost → ¬ taken → now.state = f.state ∧ now.run = 0) ∧
      (f.state = .holdover → taken →
        now.state = .locked ∧ now.settle = 0 ∧ (now.unsettled = true ↔ paramNat s 13 ≠ 0)) ∧
      (f.state = .holdover → ¬ taken → paramNat s 14 ≤ f.holdover + 1 →
        now.state = .lost ∧ now.run = 0) ∧
      (f.state = .holdover → ¬ taken → f.holdover + 1 < paramNat s 14 →
        now.state = .holdover ∧ now.holdover = f.holdover + 1) ∧
      (f.state = .locked → taken → now.state = .locked ∧
        (f.unsettled = true → now.settle = f.settle + 1 ∧
          (now.unsettled = true ↔ f.settle + 1 < paramNat s 13)) ∧
        (f.unsettled = false → now.unsettled = false)) ∧
      (f.state = .locked → ¬ taken →
        now.state = .holdover ∧ now.unsettled = true ∧ now.holdover = 0 ∧ now.settle = 0) ∧
      now.owed = false ∧ now.predicted = f.predicted ∧ now.map = f.map ∧ now.seed = f.seed ∧
      now.strobeHeight = f.strobeHeight ∧
      (drives → now.output = goal ∧ now.boundMin = param s 16 ∧ now.boundMax = param s 17 ∧
        t.out = (if goal = f.output then [] else [.focusSet goal]) ++ first ++ s.out) ∧
      (¬ drives → now.output = f.output ∧ now.boundMin = f.boundMin ∧ now.boundMax = f.boundMax ∧
        t.out = first ++ s.out) ∧
      (f.trace = none → now.trace = none ∧ now.traceHanded = f.traceHanded ∧ t.report = s.report) ∧
      (∀ r, f.trace = some r →
        let r' := { r with samples := r.samples ++ [⟨z, q, now.state⟩] }
        (r'.samples.length < 128 →
          now.trace = some r' ∧ now.traceHanded = f.traceHanded ∧ t.report = s.report) ∧
        (128 ≤ r'.samples.length → now.trace = none ∧ now.traceHanded = true ∧ t.report = { s.report with
          queue := s.report.queue ++ [⟨.trace r.wafer, traceReportWords r'⟩] })))) ∧
  (∀ (e : Entry) (s : State) (w : Wafer) (st : Settings), settingsOf s e.wafer = some st → waferAt s e.wafer = some w →
    let same := (e.roughClass &&& st.traceMask) = (st.traceClass &&& st.traceMask)
    let starts := st.traceEnable = true ∧ (st.traceMismatch = false ↔ same) ∧ s.focus.trace = none ∧
      s.focus.traceHanded = false
    (starts → startTrace e s = { s with focus := { s.focus with
      trace := some ⟨e.wafer, e.index, e.defectId, w.lotNumber, []⟩ } }) ∧
    (¬ starts → startTrace e s = s)) ∧
  (∀ (z : Word) (q : BitVec 8) (s : State), s.focus.trace = none → recordSample z q s = s ∧ endTrace s = s) ∧
  (∀ (z : Word) (q : BitVec 8) (s : State) (t : Trace), s.focus.trace = some t →
    let u := { s with focus := { s.focus with
      trace := some { t with samples := t.samples ++ [⟨z, q, s.focus.state⟩] } } }
    (t.samples.length + 1 < 128 → recordSample z q s = u) ∧
    (128 ≤ t.samples.length + 1 → recordSample z q s = endTrace u) ∧
    (t.samples = [] → endTrace s = { s with focus := { s.focus with trace := none } }) ∧
    (t.samples ≠ [] → endTrace s = ringTest { s with
      focus := { s.focus with trace := none, traceHanded := true }
      report := { s.report with queue := s.report.queue ++ [⟨.trace t.wafer, traceReportWords t⟩] } }))

/-- Trips and releases of the guard (R141 to R143): F samples out of band trip it SOFT or HARD by the mode, with the
height of the tripping sample, and the focus output stays from then on; GUARD_TRIP carries the wafer on the stage, 1
for SOFT and 2 for HARD, and the trip height. A SOFT trip adds no reason to the hold set, sends no HALT and leaves the
visit and its move in flight (R142); that an owed first FOCUS_SET goes out with a sample that trips is the model's
reading (log 12). A HARD trip holds the dispatcher and ends a visit in flight: HALT is sent where a stage move is in
flight, and the entry goes back to the queue with one retry more, or at two retries ends FOCUS_FAILED with its visit
part (R95, R108, R112, R143); that GUARD_TRIP is posted before the events of the visit's end is the model's reading
(log 33). F samples in band release a SOFT trip: GUARD_RELEASE carries the wafer on the stage, 1 and the height of the
releasing sample, and the output is set within renewed bounds once that sample has been taken (an owed FOCUS_SET
before it, log 41). The focus unit takes the sample by `focusSample` (`SampleTaken`); which of the two units takes it
first, with a visit in flight, is a free value, and the statement holds for both orders (log 10). Any other sample,
one out of band with a run below F among them, neither trips nor releases: the guard keeps its state and its trip
height, with the runs counted (R140). A sample counts from the first parameter copy on (R139); that it counts, trips
and releases in a later LOADING too is the model's reading (log 32). -/
def Obligations.GuardTrips : Prop :=
  ∀ (z : Word) (q : BitVec 8) (s : State),
    let counts := s.cmd.paramsValid = true ∧ param s 10 ≤ q.toNat
    let inside := param s 18 ≤ z.toInt ∧ z.toInt ≤ param s 19
    let outRun := min 255 (s.guard.outRun + 1)
    let inRun := min 255 (s.guard.inRun + 1)
    let hard := param s 21 = 1
    let drawn := fun x : State => { x with choices := if s.visit.current = none then s.choices else s.choices + 1 }
    (counts → ¬ inside → paramNat s 20 ≤ outRun →
      s.guard.state = .normal ∨ (s.guard.state = .softTripped ∧ hard) →
      ∃ t, exec (.sample z q) s = .next t ∧
        t.guard = ⟨if hard then .hardTripped else .softTripped, outRun, 0, some z.toInt⟩ ∧
        t.focus.output = s.focus.output ∧ t.mem = s.mem ∧ t.cmd.causes.getLsbD 0 = true ∧
        (hard → t.visit.hold.guard = true ∧ t.visit.current = none) ∧
        (¬ hard → NoRunDue s → t.visit.hold = s.visit.hold ∧ t.visit.move = s.visit.move ∧
          (t.visit.current.map fun v => (v.entry, v.wafer, v.moveTag)) =
            (s.visit.current.map fun v => (v.entry, v.wafer, v.moveTag)) ∧
          t.out = (if s.focus.owed then [.focusSet s.focus.output] else []) ++ s.out) ∧
        (let u := drawn { s with
           guard := ⟨if hard then .hardTripped else .softTripped, outRun, 0, some z.toInt⟩ }
         let acts := fun x : State =>
           let y := postEvent .guardTrip (stageWafer x) (word (if hard then 2 else 1)) z x
           if hard then hardTripActions y else y
         t = finish (acts (focusSample z q u)) ∨
           (s.visit.current ≠ none ∧ t = finish (focusSample z q (acts u))))) ∧
    (counts → inside → s.guard.state = .softTripped → paramNat s 20 ≤ inRun →
      ∃ t, exec (.sample z q) s = .next t ∧
        t.guard = ⟨.normal, 0, inRun, s.guard.tripHeight⟩ ∧
        t.focus.boundMin = param s 16 ∧ t.focus.boundMax = param s 17 ∧
        param s 16 ≤ t.focus.output ∧ t.focus.output ≤ param s 17 ∧
        t.mem = s.mem ∧ t.cmd.causes.getLsbD 1 = true ∧ t.visit.hold = s.visit.hold ∧
        (let u := drawn { s with guard := { s.guard with inRun := inRun, outRun := 0 } }
         let told := fun x : State => postEvent .guardRelease (stageWafer x) 1 z x
         let released := fun x : State => finish (refreshOutput { x with guard := { x.guard with state := .normal } })
         t = released (told (focusSample z q u)) ∨
           (s.visit.current ≠ none ∧ t = released (focusSample z q (told u))))) ∧
    (let quiet := ¬ counts ∨ (inside ∧ ¬ (s.guard.state = .softTripped ∧ paramNat s 20 ≤ inRun)) ∨
       (¬ inside ∧ (outRun < paramNat s 20 ∨ s.guard.state = .hardTripped ∨
         (s.guard.state = .softTripped ∧ ¬ hard)))
     let g := if s.cmd.paramsValid = true ∧ param s 10 ≤ q.toNat then
         (if param s 18 ≤ z.toInt ∧ z.toInt ≤ param s 19 then { s.guard with inRun := inRun, outRun := 0 }
           else { s.guard with outRun := outRun, inRun := 0 })
       else s.guard
     (guardAction z q { s with guard := g } = .none ↔ quiet) ∧
     (quiet → ∃ t, exec (.sample z q) s = .next t ∧ t.guard = g)) ∧
    (let held := { s with visit := { s.visit with hold := { s.visit.hold with guard := true } } }
     (s.visit.current = none → hardTripActions s = held) ∧
     (∀ v, s.visit.current = some v → hardTripActions s = tripVisit v held)) ∧
    (∀ v e, entryAt s v.entry = some e →
      let halted := if s.visit.move = none then s
        else { s with out := .halt :: s.out, visit := { s.visit with move := none } }
      (e.retries < 2 → tripVisit v s = endVisit v none { halted with table := s.table.map fun x =>
        if x.index = v.entry then
          { x with state := .queued, retries := x.retries + 1, result := none, visitPart := none }
        else x }) ∧
      (2 ≤ e.retries → tripVisit v s = endVisit v none { halted with table := s.table.map fun x =>
        if x.index = v.entry then
          { x with state := .focusFailed, result := none, visitPart := some ⟨false, v.predictedFocus⟩ }
        else x }))

/-! ## Carrier removal -/

/-- A carrier that is removed (R44): a lot not yet ABORTING or CLOSING is aborted; its wafers on an arm, in PA or in
LL are UNKNOWN, but for the wafer of an order in flight; with an order in flight the removal waits on it, and without
one handling is HALTED where a wafer became UNKNOWN. A removal that waits (R45): the order's own end makes the reason
of the one HANDLER_HALT, and else a wafer of the aborted lot that the order leaves in the handler is UNKNOWN, with
reason CARRIER_REMOVED; with no wafer UNKNOWN handling is IDLE and the planner runs; the other effects of the order's
end, at each destination and for an order that did not move the wafer, come first. The wafer that the last event
names, and its port, are the model's choice (log 17). All this holds of an order that ends while RESETTING too, but for
a first NOT_PICKED or NOT_PLACED, which leaves the wafer at the order's source and the removal waiting (R47); that no
HANDLER_HALT comes of that end then is the model's reading (log 40). -/
def Obligations.CarrierRemoval : Prop :=
  (∀ (p : Port) (s : State),
     (lotOnPort s p = none → carrierRemoved p s = s) ∧
     (∀ l, lotOnPort s p = some l →
       let s1 := if l.state = .aborting ∨ l.state = .closing then s else abortLot l.run s
       let gone := (List.range 50).filter fun i =>
         (waferAt s1 i).any (fun w => w.run == l.run &&
           (w.location == .armU || w.location == .armL || w.location == .pa || w.location == .ll)) &&
         !(s1.handling.order.any fun o => o.wafer == i)
       let s2 := gone.foldl (fun s i => moveWafer i .unknown s) s1
       carrierRemoved p s =
         if s2.handling.order ≠ none then
           { s2 with handling := { s2.handling with removals := s2.handling.removals ++ [(l.run, p)] } }
         else if gone = [] ∨ s2.handling.state = .halted then s2
         else postEvent .handlerHalt gone.head? 4 (word (match p with | .one => 1 | .two => 2))
           { s2 with handling := { s2.handling with state := .halted } })) ∧
  (∀ (o : Order) (s : State) (w : Wafer) (run : Nat) (p : Port) (rest : List (Nat × Port)), NoRunDue s →
     s.handling.order = some o → s.handling.removals = (run, p) :: rest → waferAt s o.wafer = some w →
     o.wafer < 50 →
     let cleared := { s with handling := { s.handling with order := none } }
     let ended := fun (h : HandlingState) (t : State) =>
       { t with handling := { t.handling with state := h, removals := [] } }
     let ofLot := ∃ r ∈ s.handling.removals, r.1 = w.run
     let removed := fun t : State => postEvent .handlerHalt (waferIn t .unknown) 4
       (word (match p with | .one => 1 | .two => 2)) (ended .halted t)
     let arrived := moveWafer o.wafer o.dst cleared
     exec (.done o.tag .fault) s = .next (postEvent .handlerHalt (some o.wafer) 1 (word o.tag.toNat)
       (ended .halted (moveWafer o.wafer .unknown cleared))) ∧
     (o.dst = .armU ∨ o.dst = .armL ∨ o.dst = .ll →
       (ofLot → exec (.done o.tag .ok) s = .next (removed (moveWafer o.wafer .unknown arrived))) ∧
       (¬ ofLot → anyUnknown arrived = true → exec (.done o.tag .ok) s = .next (removed arrived)) ∧
       (¬ ofLot → anyUnknown arrived = false → exec (.done o.tag .ok) s = .next (finish
         (let t := ended .idle arrived
          { t with handling := { t.handling with runDue := true } })))) ∧
     (∀ r, r = .notPicked ∨ r = .notPlaced → o.retry = false → s.cmd.resetting = true →
       let home := settleHome o.wafer cleared
       exec (.done o.tag r) s = .next (finish
         { home with handling := { home.handling with state := .idle, runDue := true } })) ∧
     (∀ r, r = .notPicked ∨ r = .notPlaced → o.retry = false → s.cmd.resetting = false → ofLot →
       w.location = .armU ∨ w.location = .armL ∨ w.location = .pa ∨ w.location = .ll →
       exec (.done o.tag r) s = .next (removed (moveWafer o.wafer .unknown cleared))) ∧
     (let resolved := fun t : State => finish (if anyUnknown t = true then removed t
        else { ended .idle t with handling := { (ended .idle t).handling with runDue := true } })
      (o.dst = .pa →
        let p := updWafer o.wafer (fun x => { x with phase := .prealigning }) arrived
        let set := if w.phase = .toPA
          then { p with handling := { p.handling with prealign := some (o.wafer, paramNat s 2) } } else arrived
        (ofLot → exec (.done o.tag .ok) s = .next (removed (moveWafer o.wafer .unknown set))) ∧
        (¬ ofLot → exec (.done o.tag .ok) s = .next (resolved set))) ∧
      (o.dst = .slot → exec (.done o.tag .ok) s = .next (resolved (settleHome o.wafer arrived))) ∧
      (o.dst = .stage →
        let shown := postEvent .waferOnStage (some o.wafer) w.lotNumber 0 arrived
        exec (.done o.tag .ok) s =
          .next (resolved (if w.phase = .prealigned then startAlign o.wafer shown else shown))) ∧
      (∀ r, r = .notPicked ∨ r = .notPlaced → o.retry = true →
        exec (.done o.tag r) s = .next (postEvent .handlerHalt (some o.wafer) 3 (word o.tag.toNat)
          (ended .halted (moveWafer o.wafer .unknown cleared)))) ∧
      (∀ r, r = .notPicked ∨ r = .notPlaced → o.retry = false → s.cmd.resetting = false →
        ¬ ofLot ∨ w.location = .slot ∨ w.location = .stage ∨ w.location = .unknown →
        exec (.done o.tag r) s = .next (resolved (settleHome o.wafer cleared)))))

/-! ## Resets and the clock -/

/-- POWER_ON and LINE_RESET (R171): the part takes its reset state and shows the reset cause; review memory, the
messages sent, the commands waiting and the model's count of choices are no part of it (log 28). MILLISECOND_TICK
(R192): the counter advances by one, and nothing else changes but the running timers. That a tick takes one from what
each of them has left, and that one at 0 stays there until its expiry row comes, is the model's reading (log 6). -/
def Obligations.ResetsAndTick : Prop :=
  (∀ s : State,
     let r := fun c : ResetCause => { State.reset with
       mem := s.mem, out := s.out, pending := s.pending, reads := s.reads, choices := s.choices
       cmd := { State.reset.cmd with resetCause := c } }
     exec .powerOn s = .next (r .power) ∧ exec .lineReset s = .next (r .line)) ∧
  (∀ s : State, NoRunDue s →
     let less := fun q : PortState => { q with timer := q.timer.map fun n => n - 1 }
     exec .millisecondTick s = .next { s with
       cmd := { s.cmd with ms := s.cmd.ms + 1 }
       handling := { s.handling with
         order := s.handling.order.map fun o => { o with timer := o.timer - 1 }
         prealign := s.handling.prealign.map fun p => (p.1, p.2 - 1)
         port1 := less s.handling.port1
         port2 := less s.handling.port2 }
       visit := { s.visit with current := s.visit.current.map fun v => { v with timer := v.timer - 1 } } })

/-- SOFT_RESET (R68, R89, R114, R138, R165, R190, R191): what its start leaves. The part is RESETTING with the cause
SOFT; no LOT_START, visit, move, attempt, entry, report, accumulator, focus map, seed or trace is left; a HARD trip
keeps the guard, its hold, and a pending FAULT (log 19); handling, the guard, the focus output, the job queue and the
parameter copy stay; HALT is sent where a move was in flight. That attempts and marks are dropped in the step that takes
the command is the model's reading (log 18). -/
def Obligations.SoftReset : Prop :=
  ∀ (w : CommandWrite) (s : State), PageOpen s → s.cmd.resetting = false → NoRunDue s →
    ∃ t, exec (.softReset w) s = .next t ∧
      let latched := s.guard.state = .hardTripped
      t.cmd.code = .accepted ∧ t.cmd.echoed = 13 ∧ t.cmd.count = s.cmd.count + 1 ∧ t.cmd.resetting = true ∧
      t.cmd.resetCause = .soft ∧ t.cmd.warm = true ∧ t.cmd.lotStart = none ∧
      t.cmd.causes = (if latched then s.cmd.causes &&& 1 else 0) ∧ t.cmd.paramRaw = s.cmd.paramRaw ∧
      t.cmd.mask = s.cmd.mask ∧ t.cmd.ms = s.cmd.ms ∧
      t.visit.current = none ∧ t.visit.move = none ∧ t.visit.lastResult = none ∧ t.visit.tag = s.visit.tag ∧
      t.visit.hold.suspend = false ∧ t.visit.hold.stage = false ∧ t.visit.hold.align = none ∧
      (t.visit.hold.guard = true ↔ s.visit.hold.guard = true ∧ latched) ∧
      t.out = (if s.visit.move = none then s.out else .halt :: s.out) ∧
      t.focus.state = .idle ∧ t.focus.map = [] ∧ t.focus.seed = none ∧ t.focus.trace = none ∧
      t.focus.output = s.focus.output ∧ t.guard = s.guard ∧ t.handling = s.handling ∧ t.table = [] ∧
      t.report.queue = [] ∧ t.report.producer = s.report.producer ∧
      (∀ l ∈ lotList t, l.acc = none) ∧
      (∀ i x, waferAt t i = some x → ∃ y, waferAt s i = some y ∧ x.location = y.location ∧ x.phase = y.phase ∧
        x.acc = none ∧ x.align.state = .none ∧ x.align.primary = none ∧ x.align.secondary = none ∧
        x.align.checks = []) ∧
      t.path.jobs = s.path.jobs ∧ t.path.mode = s.path.mode ∧ t.mem = (commandSeen 13 w s).mem

/-- A map reload (R170, R172, R173): MAP_RELOAD is accepted, and a write to the map header asks the same. With the lot
queue empty, and not while RESETTING, the reload begins: it drains the job queue, and upstream accesses wait from now
on; otherwise it is pending. LOADING_BEGIN: once the job queue is drained for a reload, or in a soft reset with no
order in flight, the path is LOADING with its two jobs queued, and the drop record is cleared. That a layout read which
waits for a place is drained too (log 30), and that the row changes nothing when it is not due (log 5), are the model's
readings. -/
def Obligations.MapReload : Prop :=
  (∀ (w : CommandWrite) (s : State), PageOpen s → NoRunDue s → s.cmd.resetting = false → s.cmd.lotStart = none →
     let u := commandSeen 12 w s
     let ok := { u with cmd := { u.cmd with code := .accepted } }
     (s.lots = ⟨none, none⟩ → exec (.mapReload w) s =
       .next { ok with path := { s.path with draining := true, upBurst := .none } }) ∧
     (s.lots ≠ ⟨none, none⟩ → exec (.mapReload w) s =
       .next { ok with path := { u.path with reloadPending := true } })) ∧
  (∀ (w : WordWrite) (s : State), PageOpen s → NoRunDue s →
     let u := cellSeen 0 w s
     (s.lots = ⟨none, none⟩ → s.cmd.resetting = false → exec (.mapHeaderWrite w) s =
       .next { u with path := { s.path with draining := true, upBurst := .none } }) ∧
     (s.lots ≠ ⟨none, none⟩ ∨ s.cmd.resetting = true → exec (.mapHeaderWrite w) s =
       .next { u with path := { u.path with reloadPending := true } })) ∧
  (∀ s : State, NoRunDue s →
     let due := s.path.mode ≠ .loading ∧ s.path.jobs = [] ∧ Producer.layout ∉ s.path.waiters ∧
       (s.path.draining = true ∨ (s.cmd.resetting = true ∧ s.handling.order = none))
     (due → exec .loadingBegin s = .next { s with path := { s.path with
       mode := .loading
       drops := List.replicate 8 0
       reported := List.replicate 8 false
       lastDrop := none
       reloadPending := false
       draining := false
       upBurst := .none
       jobs := [mapBlockJob, paramAreaJob] } }) ∧
     (¬ due → exec .loadingBegin s = .next s))

/-- LOADMAP_COMPLETE (R19, R20, R160, R170, R173, R202): the parameter copy is made from the words read, and where a bound
of the focus output is another than before the output is set again within the new bounds (R123). A valid map goes in
force; a REPORTS zone that moved starts an empty ring with its header written, and an EVENTS zone that moved starts at
place 0 (R199), with place, wrap count and consumer copy kept otherwise; MAP_RELOADED is posted. An invalid one leaves the
path TRANSPARENT with MAP_INVALID. PARAM_CLAMPED follows for each word out of range (R203). A soft reset that led here
completes: records out of their slots are kept, REVIEW_DONE and ABORTED, under lot 0, which is CLOSING; with none kept the
lot queue is empty; handling is HALTED where a kept record is UNKNOWN, and else IDLE with a planner run (R47). The words
are those of the page where the two jobs are as they were queued. -/
def Obligations.LoadingEnds : Prop :=
  (∀ s : State, s.path.mode = .loading → (s.path.jobs.take 2).map (·.kind) = [.mapBlock, .paramArea] →
     TableOfWafers s →
     let block := headWords s
     let area := headWords (finishHead s)
     let zones := (List.range 8).map (Zone.ofWords block)
     let fault := mapFault (bits (nth block 0) 0 4) zones
     ∃ t, exec .loadmapComplete s = .next t ∧
       t.cmd.paramRaw = (List.range 128).map (fun n => area.getD n 0) ∧ t.cmd.paramsValid = true ∧
       (fault = none → t.path.mode = .mapped ∧ t.path.zones = zones ∧ t.cmd.causes.getLsbD 4 = true) ∧
       (fault = none → sameZone s.path.zones zones .reports = false →
         t.report.producer = 0 ∧ t.report.wrap = 0 ∧ t.report.consumer = 0) ∧
       (fault = none → sameZone s.path.zones zones .reports = true →
         t.report.producer = s.report.producer ∧ t.report.consumer = s.report.consumer) ∧
       (fault ≠ none → t.path.mode = .transparent ∧ t.path.zones = [] ∧ t.cmd.causes.getLsbD 0 = true) ∧
       (s.cmd.resetting = false → t.lots = s.lots ∧ t.path.held = s.path.held) ∧
       (s.cmd.resetting = true →
         t.cmd.resetting = false ∧ t.path.held = [] ∧ t.handling.prealign = none ∧
         (∀ i w, waferAt s i = some w → w.location ≠ .slot → ∃ x l, waferAt t i = some x ∧
           x.location = w.location ∧ x.phase = .reviewDone ∧ x.outcome = some .aborted ∧ x.acc = none ∧
           t.lots = ⟨some l, none⟩ ∧ l.number = 0 ∧ l.state = .closing ∧ l.run = x.run) ∧
         (∀ i w, waferAt s i = some w → w.location = .slot → waferAt t i = none) ∧
         ((∀ i w, waferAt s i = some w → w.location = .slot) → t.lots = ⟨none, none⟩) ∧
         ((∃ i w, waferAt s i = some w ∧ w.location = .unknown) → t.handling.state = .halted) ∧
         ((∀ i w, waferAt s i = some w → w.location ≠ .unknown) → ∃ u, t = finish u ∧
           u.handling = { s.handling with state := .idle, prealign := none, removals := [], runDue := true }))) ∧
  (∀ s : State, s.path.mode = .loading → (s.path.jobs.take 2).map (·.kind) = [.mapBlock, .paramArea] →
     let block := headWords s
     let area := headWords (finishHead s)
     let zones := (List.range 8).map (Zone.ofWords block)
     let count := bits (nth block 0) 0 4
     let generation := bits (nth block 0) 16 16
     let read := finishHead (finishHead s)
     let copied := { read with cmd := { s.cmd with
       paramRaw := (List.range 128).map fun n => area.getD n 0
       paramsValid := true } }
     let bounded := if s.cmd.paramsValid = false ∨ param s 16 ≠ param copied 16 ∨ param s 17 ≠ param copied 17
       then reclampOutput copied else copied
     let inMode := fun (m : PathMode) (zs : List Zone) =>
       { bounded with path := { bounded.path with mode := m, zones := zs } }
     let mapped := inMode .mapped zones
     let emptied := { mapped with report := { mapped.report with producer := 0, wrap := 0, consumer := 0 } }
     let withReports := if sameZone s.path.zones zones .reports = true then mapped
       else match zones.find? fun z => z.kind == .reports with
         | none => emptied
         | some z => pushJob ⟨.report ⟨0, 0, 0, none⟩, burstsOf z.base [0, 0, 0, 0], []⟩ emptied
     let withEvents := if sameZone s.path.zones zones .events = true then withReports
       else { withReports with cmd := { withReports.cmd with evNext := 0, evWrap := 0, evConsumer := 0 } }
     let clamped := fun u : State => (List.range 128).foldl (fun u n =>
       let raw := area.getD n 0
       if isClamped n raw = true then postEvent .paramClamped none (word n) raw u else u) u
     let ended := fun u : State => exec .loadmapComplete s =
       .next (finish (noteWait (if s.cmd.resetting = true then completeReset u else u)))
     (mapFault count zones = none →
       ended (clamped (postEvent .mapReloaded none (word generation) (word count) withEvents))) ∧
     (∀ reason i, mapFault count zones = some (reason, i) →
       ended (clamped (postEvent .mapInvalid none (word reason) (word i) (inMode .transparent []))))) ∧
  (∀ (old new : List Zone) (k : ZoneKind), sameZone old new k = true ↔
     ∃ y z, old.find? (fun x => x.kind == k) = some y ∧ new.find? (fun x => x.kind == k) = some z ∧
       y.page = z.page ∧ y.pages = z.pages) ∧
  (∀ (s : State) (js : List Job), s.path.jobs = mapBlockJob :: paramAreaJob :: js →
     headWords s = readWords s.mem 36 0xFFF000 ∧ headWords (finishHead s) = readWords s.mem 128 0xFFF200)

/-- The tests of a map (R168), for eight descriptors: a map is valid exactly if its count is at most 8 and is that of
the used descriptors, and each used one has 1 to 1,024 pages, ends at or below the configuration page, overlaps no
other, and shares no kind but GUARDED. The tests are made in this order; that the lowest descriptor is named is the
model's choice (log 27). -/
def Obligations.MapTests : Prop :=
  ∀ (count : Nat) (zs : List Zone), zs.length = 8 →
    let d := fun i => zs.getD i ⟨.unused, 0, 0, false, 0, false⟩
    let used := fun i => i < 8 ∧ (d i).kind ≠ .unused
    let counted := count ≤ 8 ∧ count = (zs.filter fun z => z.kind != .unused).length
    let fields := fun i => 1 ≤ (d i).pages ∧ (d i).pages ≤ 1024
    let below := fun i => ((d i).page + (d i).pages) * 4096 ≤ 0xFFF000
    let apart := fun i j => (d i).stop ≤ (d j).base ∨ (d j).stop ≤ (d i).base
    let single := fun i j => (d i).kind = .guarded ∨ (d i).kind ≠ (d j).kind
    (mapFault count zs = none ↔ counted ∧ (∀ i, used i → fields i) ∧ (∀ i, used i → below i) ∧
      (∀ i j, j < i → used i → used j → apart i j) ∧ (∀ i j, j < i → used i → used j → single i j)) ∧
    (mapFault count zs = some (1, 0) ↔ ¬ counted) ∧
    (∀ i, mapFault count zs = some (2, i) ↔
      counted ∧ used i ∧ ¬ fields i ∧ ∀ j, j < i → used j → fields j) ∧
    (∀ i, mapFault count zs = some (3, i) ↔
      counted ∧ (∀ j, used j → fields j) ∧ used i ∧ ¬ below i ∧ ∀ j, j < i → used j → below j)

/-! ## Cells and parameters -/

/-- The copied and watched cells (R159, R166, R174, R188, R193, R196, R198): a write takes the enabled lanes over the
copy. An argument cell (log 14) and the mask take it in every mode; the consumer indices, where their zone is in
force and the value is below the size of the ring (log 15), and the window select take it in MAPPED only. -/
def Obligations.CellWrites : Prop :=
  (∀ (old new : Word) (lanes : BitVec 4) (k : Nat), k < 4 →
     lane (overlay old new lanes) k = if lanes.getLsbD k then lane new k else lane old k) ∧
  (∀ (k : Fin 6) (w : WordWrite) (s : State), PageOpen s → NoRunDue s → CopiesComplete s →
     exec (.argumentCellWrite k w) s = .next { cellSeen (0x104 + 4 * k.val) w s with cmd := { s.cmd with
       args := s.cmd.args.set k.val (overlay (s.cmd.args.getD k.val 0) w.data w.lanes) } }) ∧
  (∀ (w : WordWrite) (s : State), PageOpen s → NoRunDue s →
     exec (.attentionMaskWrite w) s = .next { cellSeen 0x12C w s with cmd := { s.cmd with
       mask := (overlay (s.cmd.mask.setWidth 32) w.data w.lanes).setWidth 5 } } ∧
     (s.path.mode = .mapped → exec (.windowSelectWrite w) s =
       .next { cellSeen 0x138 w s with cmd := { s.cmd with
         windowSel := (overlay (s.cmd.windowSel.setWidth 32) w.data w.lanes).setWidth 9 } }) ∧
     (s.path.mode = .transparent →
       exec (.windowSelectWrite w) s = .next (cellSeen 0x138 w s) ∧
       exec (.eventConsumerIndexWrite w) s = .next (cellSeen 0x130 w s) ∧
       exec (.reportConsumerIndexWrite w) s = .next (cellSeen 0x134 w s))) ∧
  (∀ (w : WordWrite) (s : State), CellsOpen s → NoRunDue s →
     let ev := (overlay (word s.cmd.evConsumer) w.data w.lanes).toNat
     let rep := (overlay (word s.report.consumer) w.data w.lanes).toNat
     (∀ z, zoneOf s .events = some z → ev < 256 * z.pages - 1 →
       exec (.eventConsumerIndexWrite w) s = .next { cellSeen 0x130 w s with
         cmd := { s.cmd with evConsumer := ev } }) ∧
     ((∀ z, zoneOf s .events = some z → 256 * z.pages - 1 ≤ ev) →
       exec (.eventConsumerIndexWrite w) s = .next (cellSeen 0x130 w s)) ∧
     (∀ z, zoneOf s .reports = some z → rep < 1024 * z.pages - 4 →
       exec (.reportConsumerIndexWrite w) s = .next (ringTest { cellSeen 0x134 w s with
         report := { s.report with consumer := rep } })) ∧
     ((∀ z, zoneOf s .reports = some z → 1024 * z.pages - 4 ≤ rep) →
       exec (.reportConsumerIndexWrite w) s = .next (cellSeen 0x134 w s)))

/-- PARAMETER_WRITE (R123, R174, R201 to R203): in MAPPED the enabled lanes are taken over the raw copy of the word; a
raw word out of range is in force at the nearest bound and posts PARAM_CLAMPED, 0x80000000 asks for the default; an
output bound whose value in force changes is taken by the focus unit at once; an ignored word, and a path that is
TRANSPARENT, change the word in memory alone. The words with a parameter, with the default and the range of each, are
those of R201's table, and every other word is ignored. -/
def Obligations.ParameterWrite : Prop :=
  (∀ (n : Fin 128) (w : WordWrite) (s : State), CellsOpen s → NoRunDue s → CopiesComplete s →
     let old := s.cmd.paramRaw.getD n.val 0
     let raw := overlay old w.data w.lanes
     let u := { cellSeen (0x200 + 4 * n.val) w s with
       cmd := { s.cmd with paramRaw := s.cmd.paramRaw.set n.val raw } }
     let bound := n.val = 16 ∨ n.val = 17
     let renewed := if bound ∧ inForce n.val old ≠ inForce n.val raw then reclampOutput u else u
     (paramRange n.val = none → exec (.parameterWrite n w) s = .next (cellSeen (0x200 + 4 * n.val) w s)) ∧
     (∀ r, paramRange n.val = some r →
       let taken := raw = 0x80000000#32 ∨ (r.low ≤ raw.toInt ∧ raw.toInt ≤ r.high)
       (taken → exec (.parameterWrite n w) s = .next renewed) ∧
       (¬ taken → exec (.parameterWrite n w) s = .next (postEvent .paramClamped none (word n.val) raw renewed)))) ∧
  (∀ (n : Fin 128) (w : WordWrite) (s : State), PageOpen s → NoRunDue s → s.path.mode = .transparent →
     exec (.parameterWrite n w) s = .next (cellSeen (0x200 + 4 * n.val) w s)) ∧
  (let table : List (Nat × Int × Int × Int) :=
     [(0, 20000, 1000, 120000), (1, 60000, 5000, 600000), (2, 15000, 1000, 120000), (3, 500, 10, 10000),
      (4, 6, 1, 16), (5, 3000, 100, 5000), (6, 155000000, 1000000, 200000000), (7, 3000, 100, 60000),
      (8, 400, 10, 10000), (9, 5000, 100, 60000), (10, 96, 0, 255), (11, 2000, 100, 50000), (12, 6, 1, 32),
      (13, 8, 0, 64), (14, 40, 1, 255), (15, 20000, 1000, 150000), (16, -400000, -1000000, 0),
      (17, 400000, 0, 1000000), (18, -300000, -1000000, 0), (19, 300000, 0, 1000000), (20, 3, 1, 16), (21, 1, 0, 1)] ++
     ((List.range 16).map fun k => (32 + k, 1024, 0, 1024)) ++
     [(48, 0, 0, 15), (49, 0, 0, 15), (50, 0, 0, 1), (51, 0, 0, 1)] ++
     (List.range 4).flatMap fun k => [(64 + 5 * k, 0, 0, 31), (65 + 5 * k, 1023, 1, 1023), (66 + 5 * k, 8, 1, 8),
       (67 + 5 * k, 0, 0, 1), (68 + 5 * k, 0, 0, 1)]
   (∀ n default low high, (n, default, low, high) ∈ table → paramRange n = some ⟨default, low, high⟩) ∧
   (∀ n, (∀ row ∈ table, row.1 ≠ n) → paramRange n = none)) ∧
  (∀ (n : Nat) (raw : Word) (r : ParamRange), paramRange n = some r →
     r.low ≤ inForce n raw ∧ inForce n raw ≤ r.high ∧
     (raw = 0x80000000#32 → inForce n raw = r.default) ∧
     (raw ≠ 0x80000000#32 → r.low ≤ raw.toInt → raw.toInt ≤ r.high → inForce n raw = raw.toInt) ∧
     (raw ≠ 0x80000000#32 → raw.toInt < r.low → inForce n raw = r.low) ∧
     (raw ≠ 0x80000000#32 → r.high < raw.toInt → inForce n raw = r.high))

/-! ## The upstream side of the path -/

/-- UPSTREAM_WRITE (R167, R178, R179, R182): a word in protected memory is dropped, so that memory is as it was; the
drop is counted and its zone noted, and PROTECT_DROP is posted once for the zone until the cause cell is read. Any
other word that is no posting is forwarded with its data and byte enables, and nothing else changes. A byte is
protected in MAPPED alone, by the lowest descriptor that covers it and is an EVENTS or a REPORTS zone, a LAYOUT zone
with a record there that a queued lot references (R180), or a GUARDED zone on its protected side (R167): the part of
its size that the exponent gives, at the low or the high end, or with the complement flag all the rest. -/
def Obligations.UpstreamWrite : Prop :=
  (∀ (index : BitVec 22) (w : WordWrite) (s : State), BusFree s → NoRunDue s →
    (Instr.upstreamWrite index w).wellFormed = true →
    let a := 4 * index.toNat
    a / 32 * 32 ∉ s.path.held →
    (∀ i, protectedBy s a = some i →
      let u := { s with path := { s.path with
        drops := s.path.drops.modify i fun n => min 65535 (n + 1)
        lastDrop := some i
        upBurst := if w.more then (if s.path.upBurst = .carried then .carried else .begun) else .none } }
      exec (.upstreamWrite index w) s = .next (if s.path.reported.getD i false then u
        else postEvent .protectDrop none (word i) (word a)
          { u with path := { u.path with reported := s.path.reported.set i true } })) ∧
    (protectedBy s a = none → ¬ (a % 32 = 28 ∧ w.lanes.getLsbD 3 = true ∧ w.data.getLsbD 31 = true) →
      exec (.upstreamWrite index w) s =
        .next { s with
          mem := writeWord s.mem a w.data w.lanes
          path := { s.path with upBurst := if w.more then .carried else .none } })) ∧
  (∀ (s : State) (a : Nat),
    let protects := fun i : Nat => s.path.mode = .mapped ∧ ∃ z, s.path.zones[i]? = some z ∧
      let low := 4096 * z.page
      let high := 4096 * z.page + 4096 * z.pages
      let part := 4096 * z.pages / 2 ^ z.exponent
      let near := if z.high = true then high ≤ a + part else a < low + part
      low ≤ a ∧ a < high ∧ (z.kind = .events ∨ z.kind = .reports ∨
        (z.kind = .guarded ∧ (near ↔ z.complement = false)) ∨
        (z.kind = .layout ∧ ∃ l ∈ lotList s, ∃ k, l.layoutIndex = some k ∧
          low + 64 * k ≤ a ∧ a < low + 64 * k + 64))
    (∀ i, protectedBy s a = some i ↔ i < 8 ∧ protects i ∧ ∀ j, j < i → ¬ protects j) ∧
    (protectedBy s a = none ↔ ∀ i, i < 8 → ¬ protects i))

/-- POSTING (R173, R175, R176, R184): a tag write with the post flag set, to a slot in force, is forwarded, its FETCH
job is queued and the slot is held; that the job's sequence number is lane 0 of the data word, enabled or not, is the
model's reading (log 42). With no place for the job it waits for one, and to a held slot it waits, and memory is as it
was; while RESETTING it is forwarded and no more. From a depth of 12 the head job goes first (R185), so that it waits,
unless its burst holds the bus already. BURST_RESUME (R176, R182): a word that must wait still stays; a word of plain
memory that need not wait is forwarded, and a read burst is answered. A read burst without the cause cell (R181, R182,
R185) is answered word by word, and has the bus from its first word that memory answers to its last; from a depth of
12 it waits at that word, unless it has the bus. A job that takes the last place lets the posting that stands first
wait for one from that moment on. That the row changes nothing with no word waiting (log 5), that it serves the words
of the first access that waits (log 7), that a waiting word gives the bus up (log 8), that a FETCH begins to wait as
soon as its word stands first and lacks a place alone (log 29), and that a step on an empty command queue takes a read
burst that was sent (log 34) are the model's readings. A word that waits alone and need not wait any more does what
its row does on a bus where no word waits; of an access of several words each that need not wait is served in turn,
the posting among them taking its place, and the rest waits on at the first that must (R176, R182). -/
def Obligations.PostingAndResume : Prop :=
  (∀ (index : BitVec 22) (w : WordWrite) (s : State), NoRunDue s → s.path.upWait = [] → s.path.mode = .mapped →
     s.path.draining = false → (Instr.posting index w).wellFormed = true →
     let a := 4 * index.toNat
     protectedBy s a = none →
     let forwarded := { s with
       mem := writeWord s.mem a w.data w.lanes
       path := { s.path with upBurst := if w.more then .carried else .none } }
     let waits := { s.path with upWait := [⟨index, .write w.data w.lanes, w.more⟩], upBurst := .none }
     let goesFirst := depth s < 12 ∨ s.path.upBurst = .carried
     (∀ k slot, slotAt s a = some (k, slot) → s.cmd.resetting = false → a / 32 * 32 ∉ s.path.held →
       let place := depth s < 16 ∧ (s.path.waiters = [] ∨ s.path.waiters.head? = some .fetch)
       (place → goesFirst → exec (.posting index w) s = .next (pushJob
         ⟨.fetch slot k (lane w.data 0) (w.data.getLsbD 30), [.read (slot + 4) 6], []⟩
         { forwarded with path := { forwarded.path with
           waiters := s.path.waiters.filter fun q => q != .fetch
           held := s.path.held ++ [slot] } })) ∧
       (place → ¬ goesFirst → exec (.posting index w) s = .next { s with path := waits }) ∧
       (¬ place → exec (.posting index w) s = .next { s with path := { waits with
         waiters := if Producer.fetch ∈ s.path.waiters then s.path.waiters else s.path.waiters ++ [.fetch] } })) ∧
     (a / 32 * 32 ∈ s.path.held → exec (.posting index w) s = .next { s with path := waits }) ∧
     (s.cmd.resetting = true ∨ slotAt s a = none → a / 32 * 32 ∉ s.path.held →
       (goesFirst → exec (.posting index w) s = .next forwarded) ∧
       (¬ goesFirst → exec (.posting index w) s = .next { s with path := waits }))) ∧
  (∀ s : State, s.path.upWait = [] → exec .burstResume s = .next s) ∧
  (∀ (s : State) (u : UpWord) (us : List UpWord), s.path.upWait = u :: us →
     s.path.mode = .loading ∨ s.path.draining = true → exec .burstResume s = .next { s with path := { s.path with
       upBurst := .none } }) ∧
  (∀ (s : State) (index : BitVec 22) (d : Word) (e : BitVec 4), s.path.upWait = [⟨index, .write d e, false⟩] →
     NoRunDue s → s.path.mode ≠ .loading → s.path.draining = false → depth s < 12 →
     let a := 4 * index.toNat
     a < 0xFFF000 → a / 32 * 32 ∉ s.path.held → protectedBy s a = none → a % 32 ≠ 28 →
     exec .burstResume s = .next { s with
       mem := writeWord s.mem a d e
       path := { s.path with upWait := [], upBurst := .none } }) ∧
  (∀ (r : ReadAccess) (rs : List ReadAccess) (s : State), NoRunDue s →
     let addr := fun k : Nat => 4 * (r.start + BitVec.ofNat 22 k).toNat
     let words := (List.range (r.after.val + 1)).map fun k =>
       (⟨r.start + BitVec.ofNat 22 k, .read, decide (k < r.after.val) || r.more⟩ : UpWord)
     let answers := fun n : Nat => ((List.range n).map fun k => upstreamRead s (addr k)).reverse ++ s.path.answered
     let fromState := fun k : Nat => ∃ w, overlaid s (addr k) = some w
     let fromMemory := fun k : Nat => overlaid s (addr k) = none
     let held := s.path.mode = .loading ∨ s.path.draining = true
     (∀ k, k ≤ r.after.val → addr k ≠ 0xFFF128) →
     (s.pending = [] → s.reads = r :: rs →
       (s.path.upWait = [] → ¬ held → depth s < 12 ∨ s.path.upBurst = .carried →
         step s = .next { s with reads := rs, path := { s.path with
           upBurst := if r.more = false then .none
             else if s.path.upBurst = .carried ∨ ∃ k, k ≤ r.after.val ∧ overlaid s (addr k) = none then .carried else .begun
           answered := answers (r.after.val + 1) } }) ∧
       (∀ n, s.path.upWait = [] → ¬ held → 12 ≤ depth s → s.path.upBurst ≠ .carried →
         n ≤ r.after.val + 1 → (∀ k, k < n → fromState k) → (n ≤ r.after.val → fromMemory n) →
         step s = .next { s with reads := rs, path := { s.path with
           upBurst := if n ≤ r.after.val ∨ r.more = false then .none else .begun
           upWait := words.drop n
           answered := answers n } }) ∧
       (s.path.upWait = [] → held → step s = .next { s with reads := rs, path := { s.path with
         upWait := words, upBurst := .none } }) ∧
       (s.path.upWait ≠ [] → step s = .next { s with reads := rs, path := { s.path with
         upWait := s.path.upWait ++ words } })) ∧
     (s.path.upWait = words → r.more = false → ¬ held → depth s < 12 →
       exec .burstResume s = .next { s with path := { s.path with
         upWait := [], upBurst := .none, answered := answers (r.after.val + 1) } })) ∧
  (∀ s : State,
     let waits := ∃ u us d e k slot, s.path.upWait = u :: us ∧ u.access = .write d e ∧
       s.path.mode ≠ .loading ∧ s.path.draining = false ∧ 4 * u.index.toNat / 32 * 32 ∉ s.path.held ∧
       natureOf s u = .posting k slot ∧
       ¬ (depth s < 16 ∧ (s.path.waiters = [] ∨ s.path.waiters.head? = some .fetch))
     (waits → Producer.fetch ∉ s.path.waiters → noteWait s = { s with path := { s.path with
       waiters := s.path.waiters ++ [.fetch] } }) ∧
     (¬ waits ∨ Producer.fetch ∈ s.path.waiters → noteWait s = s) ∧
     (∀ j : Job, pushJob j s = noteReport (noteWait { s with path := { s.path with jobs := s.path.jobs ++ [j] } }))) ∧
  (let carriedBy := fun (c : Instr) (u : UpWord) =>
     (∃ v w, c = commandRow v w ∧ u = commandWrite v w) ∨
     (∃ w, c = .mapHeaderWrite w ∧ u = cellWrite 0x000 w) ∨
     (∃ k w, c = .argumentCellWrite k w ∧ u = cellWrite (0x104 + 4 * k.val) w) ∨
     (∃ w, c = .attentionMaskWrite w ∧ u = cellWrite 0x12C w) ∨
     (∃ w, c = .eventConsumerIndexWrite w ∧ u = cellWrite 0x130 w) ∨
     (∃ w, c = .reportConsumerIndexWrite w ∧ u = cellWrite 0x134 w) ∨
     (∃ w, c = .windowSelectWrite w ∧ u = cellWrite 0x138 w) ∨
     (∃ n w, c = .parameterWrite n w ∧ u = cellWrite (0x200 + 4 * n.val) w) ∨
     (∃ i w, c = .upstreamWrite i w ∧ u = memoryWrite i w) ∨ (∃ i w, c = .posting i w ∧ u = memoryWrite i w)
   (∀ (c : Instr) (u : UpWord) (s : State), carriedBy c u →
     (s.path.upWait = [u] → u.more = false → mustWait s u = false →
       exec .burstResume s = exec c { s with path := { s.path with upWait := [] } }) ∧
     (s.path.upWait = [] → exec c s = .next (if mustWait s u = true
       then noteWait { s with path := { s.path with upWait := [u], upBurst := .none } } else serveWord u s)) ∧
     (s.path.upWait ≠ [] → exec c s = .next { s with path := { s.path with upWait := s.path.upWait ++ [u] } })) ∧
   (∀ (u : UpWord) (us : List UpWord) (s : State), s.path.upWait = u :: us →
     let t := serveWord u { s with path := { s.path with upWait := us } }
     (mustWait s u = true → exec .burstResume s = .next (noteWait { s with path := { s.path with
       upBurst := .none } })) ∧
     (mustWait s u = false → u.more = true → exec .burstResume s = exec .burstResume t) ∧
     (mustWait s u = false → u.more = false → exec .burstResume s = .next (noteWait t))) ∧
   (∀ (u : UpWord) (s : State), NoRunDue s →
     let a := 4 * u.index.toNat
     let carries := match natureOf s u with
       | .overlay => false
       | .dropped _ => false
       | .memoryRead => true
       | .posting _ _ => true
       | .forwarded => true
     let on : State := { s with path := { s.path with upBurst := if u.more = false then .none
       else if carries = true ∨ s.path.upBurst = .carried then .carried else .begun } }
     (u.access = .read → a ≠ 0xFFF128 → serveWord u s = { on with path := { on.path with
       answered := upstreamRead s a :: s.path.answered } }) ∧
     (∀ d e, u.access = .write d e →
       (∀ k slot, natureOf s u = .posting k slot → serveWord u s = pushJob
         ⟨.fetch slot k (lane d 0) (d.getLsbD 30), [.read (slot + 4) 6], []⟩
         { on with
           mem := writeWord s.mem a d e
           path := { on.path with
             waiters := s.path.waiters.filter fun q => q != Producer.fetch
             held := s.path.held ++ [slot] } }) ∧
       (natureOf s u = .forwarded → a < 0xFFF000 → serveWord u s = { on with mem := writeWord s.mem a d e }) ∧
       (∀ k : Fin 6, s.cmd.args.length = 6 → natureOf s u = .forwarded → a = 0xFFF104 + 4 * k.val →
         serveWord u s = { on with
           mem := writeWord s.mem a d e
           cmd := { s.cmd with args := s.cmd.args.set k.val (overlay (s.cmd.args.getD k.val 0) d e) } }))))

/-! ## Jobs -/

/-- ACCEPT_JOB_COMPLETE (R74, R176, R177): the acceptance word stands in word 0 of the slot, and the slot is held no
longer. EVENT_JOB_COMPLETE (R183): the job's bursts reach memory and it leaves the queue. The bursts of a run of words
write those words, in address order. The arbiter (R176, R182, R185): the bus is the jobs' while no upstream burst is
between two of its words without waiting, whatever the words served so far were, and, below a depth of 12, no upstream
access claims it that has a word to carry and need not wait; from 12 on the jobs go first. A completion finds its job
at the head only then. That a completion changes nothing otherwise (log 5), that the words of an access that waits are
those up to its last (log 7), that the order of commands is that of bus use (log 8), and that the head job runs a
burst when no command and no read burst has been sent (log 4) are the model's readings. -/
def Obligations.AcceptAndEventJobs : Prop :=
  (∀ (slot : Nat) (c : AcceptCode) (seq : Byte) (entry : Nat) (js : List Job) (s : State), NoRunDue s →
     s.path.jobs = acceptJob slot c seq entry :: js → s.path.upBurst = .none → s.path.upWait = [] → entry < 2048 →
     exec .acceptJobComplete s = .next { s with
       mem := writeWord s.mem slot (word (c.code + 256 * seq.toNat + 65536 * entry)) 15
       path := { s.path with jobs := js, held := s.path.held.filter fun b => b != slot } }) ∧
  (∀ (bs : List Burst) (got : List Word) (js : List Job) (s : State), NoRunDue s →
     s.path.jobs = ⟨.event, bs, got⟩ :: js → jobsHaveBus s = true →
     exec .eventJobComplete s = .next { s with
       mem := (runBursts s.mem got bs).1
       path := { s.path with jobs := js } }) ∧
  (∀ (m : Memory) (got : List Word) (a : Nat) (ws : List Word),
     (runBursts m got (burstsOf a ws)).1 = writeWords m a ws) ∧
  (let carries := fun (s : State) (u : UpWord) => natureOf s u ≠ .overlay ∧ ∀ i, natureOf s u ≠ .dropped i
   (∀ s : State,
      let claims := ∃ u us, s.path.upWait = u :: us ∧ mustWait s u = false ∧
        ∃ before v after, u :: us = before ++ v :: after ∧ (∀ x ∈ before, x.more = true) ∧ carries s v
      jobsHaveBus s = true ↔ s.path.upBurst = .none ∧ (12 ≤ depth s ∨ ¬ claims)) ∧
   (∀ (s : State) (u : UpWord), mustWait s u = true ↔
      s.path.mode = .loading ∨ s.path.draining = true ∨
      (u.access ≠ .read ∧ 4 * u.index.toNat / 32 * 32 ∈ s.path.held) ∨
      (∃ k slot, natureOf s u = .posting k slot ∧
        ¬ (depth s < 16 ∧ (s.path.waiters = [] ∨ s.path.waiters.head? = some .fetch))) ∨
      (carries s u ∧ 12 ≤ depth s ∧ s.path.upBurst ≠ .carried)) ∧
   (∀ (s : State) (k : JobKind), headKind s = some k ↔
      jobsHaveBus s = true ∧ ∃ j js, s.path.jobs = j :: js ∧ j.kind = k) ∧
   (∀ (s : State) (c : Instr), NoRunDue s → jobsHaveBus s = false →
      c ∈ [Instr.intakeRecord, .resultRecord, .markRecord, .acceptJobComplete, .eventJobComplete, .reportJobComplete,
        .layoutReadComplete] → exec c s = .next s)) ∧
  (∀ s : State, s.pending = [] → s.reads = [] →
     (∀ k b b' bs got js, s.path.jobs = ⟨k, b :: b' :: bs, got⟩ :: js →
       (jobsHaveBus s = false → step s = .next s) ∧
       (∀ a n, jobsHaveBus s = true → b = .read a n → step s = .next { s with path := { s.path with
         jobs := ⟨k, b' :: bs, got ++ readWords s.mem n a⟩ :: js } }) ∧
       (∀ a ws, jobsHaveBus s = true → b = .write a ws → step s = .next { s with
         mem := writeWords s.mem a ws
         path := { s.path with jobs := ⟨k, b' :: bs, got⟩ :: js } })) ∧
     (s.path.jobs = [] ∨ (∃ j js, s.path.jobs = j :: js ∧ j.bursts.length ≤ 1) → step s = .next s))

/-- REPORT_JOB_QUEUED (R156, R157, R184): with no REPORT job in flight the head of the report queue gets its job if
the ring has room: a PAD where the room to the end is too short, the record, then the ring header as it will stand
after it. A head that has room but no queue place, or whose turn has not come, waits for one, from the ring test on or
from the job that fills the queue (`pushJob` in `PostingAndResume`). REPORT_JOB_COMPLETE
(R87, R158, R160, R165): the record leaves the queue, producer index and wrap count advance, REPORT_WRITTEN is posted
and the unit that waits is told; a job of the ring header alone posts nothing. That the row queues nothing when no
report is due (log 5), and when a head begins to wait and takes its turn among the three waiting producers (log 29),
are the model's readings, and so are the numbers of the outcomes in word 4 of the wafer report (R187, log 22). The end
of a lot (R13, R130): its seed and its records go, the pending lot moves up, LOT_ENDED carries the count of wafers
reviewed, and a pending reload begins once the queue is empty. The words of the three reports (R126, R150, R151, R153,
R154). -/
def Obligations.ReportJobs : Prop :=
  (∀ (z : Zone) (r : Report) (rs : List Report) (s : State), NoRunDue s → zoneOf s .reports = some z →
     s.report.queue = r :: rs → (∀ j ∈ s.path.jobs, j.kind.isReport = false) →
     let n := 1024 * z.pages - 4
     let p := s.report.producer
     let len := r.words.length
     let free := (((s.report.consumer : Int) - p - 1) % n).toNat
     let padded := n - p < len
     let need := if padded then n - p + len else len
     let start := if padded then 0 else p
     let next := (start + len) % n
     let wrap := if padded ∨ start + len = n then s.report.wrap + 1 else s.report.wrap
     let addr := fun k => z.base + 16 + 4 * k
     let job : Job := ⟨.report ⟨start, next, wrap, some r.tag⟩,
       (if padded then [.write (addr p) [word (4 + 256 * (n - p))]] else []) ++ burstsOf (addr start) r.words ++
         burstsOf z.base [word next, 0, wrap, 0], []⟩
     p < n →
     (free < need → exec .reportJobQueued s = .next s) ∧
     let place := s.path.jobs.length < 16 ∧ (s.path.waiters = [] ∨ s.path.waiters.head? = some .report)
     (need ≤ free → place → exec .reportJobQueued s = .next (pushJob job { s with path := { s.path with
       waiters := s.path.waiters.filter fun q => q != .report } })) ∧
     (need ≤ free → ¬ place → exec .reportJobQueued s = .next { s with path := { s.path with
       waiters := if Producer.report ∈ s.path.waiters then s.path.waiters else s.path.waiters ++ [.report] } })) ∧
  (∀ s : State, NoRunDue s →
     zoneOf s .reports = none ∨ s.report.queue = [] ∨ (∃ j ∈ s.path.jobs, j.kind.isReport = true) →
     exec .reportJobQueued s = .next s) ∧
  (∀ s : State,
     let needs := ∃ z r rs, zoneOf s .reports = some z ∧ s.report.queue = r :: rs ∧
       (∀ j ∈ s.path.jobs, j.kind.isReport = false) ∧
       let n := 1024 * z.pages - 4
       let room := n - s.report.producer
       let free := (s.report.consumer + (n - 1 - s.report.producer)) % n
       (if room < r.words.length then room + r.words.length else r.words.length) ≤ free
     let place := s.path.jobs.length < 16 ∧ (s.path.waiters = [] ∨ s.path.waiters.head? = some .report)
     (needs → ¬ place → Producer.report ∉ s.path.waiters →
       noteReport s = { s with path := { s.path with waiters := s.path.waiters ++ [.report] } }) ∧
     (¬ needs ∨ place ∨ Producer.report ∈ s.path.waiters → noteReport s = s) ∧
     (needs → ringTest s = noteReport s) ∧
     (¬ needs → ringTest s = { s with path := { s.path with
       waiters := s.path.waiters.filter fun q => q != .report } })) ∧
  (∀ (r : ReportJob) (s : State), headKind s = some (.report r) → NoRunDue s →
     (r.tag = none → exec .reportJobComplete s = .next (ringTest (finishHead s))) ∧
     (∀ t, r.tag = some t → exec .reportJobComplete s = .next (finish (ringTest (handReport t (postEvent .reportWritten
       (match t with | .wafer i => some i | .lot _ => none | .trace i => some i)
       (match t with | .wafer _ => 1 | .lot _ => 2 | .trace _ => 3) (word r.start)
       { finishHead s with report := { s.report with
         queue := s.report.queue.tail
         producer := r.next
         wrap := r.wrap } })))))) ∧
  (∀ (t : ReportTag) (s : State), s.cmd.resetting = true → handReport t s = s) ∧
  (∀ s : State, s.cmd.resetting = false →
     (∀ i, handReport (.trace i) s = { s with focus := { s.focus with traceHanded := false } }) ∧
     (∀ run l, lotOfRun s run = some l → handReport (.lot run) s = endLot l s) ∧
     (∀ i w, waferAt s i = some w → handReport (.wafer i) s = requestTest w.run
       (updWafer i (fun x => { x with acc := none }) { s with table := s.table.filter fun e => e.wafer != i }))) ∧
  (∀ (l : Lot) (s : State),
     let freed := { s with
       focus := { s.focus with seed := s.focus.seed.filter fun d => d.run != l.run }
       wafers := s.wafers.map fun o => o.filter fun w => w.run != l.run
       lots := if (s.lots.active.any fun a => a.run == l.run) = true
         then ⟨s.lots.second.map fun b => if b.state = .pending then { b with state := .active } else b, none⟩
         else ⟨s.lots.active, s.lots.second.filter fun b => b.run != l.run⟩ }
     let reviewed := (List.range 50).countP fun i =>
       (waferAt s i).any fun w => w.run == l.run && w.outcome == some .complete
     let t := wantPlan (postEvent .lotEnded none l.number (word reviewed) freed)
     let reloads := s.path.reloadPending = true ∧ freed.lots = ⟨none, none⟩ ∧ s.cmd.resetting = false
     (¬ reloads → endLot l s = t) ∧
     (reloads → endLot l s = { t with path := { t.path with
       draining := true, upBurst := .none, waiters := t.path.waiters.filter fun q => q != .fetch } })) ∧
  (let pairs := fun counts : List Nat =>
     ((List.range 32).filter fun c => 0 < counts.getD c 0).map fun c => word (c + 65536 * counts.getD c 0)
   let classes := fun counts : List Nat => counts.length = 32 ∧ ∀ n ∈ counts, n ≤ 65535
   (∀ (s : State) (i : Nat) (w : Wafer) (a : WaferAcc) (runs : List Nat), classes a.classCounts →
      (∀ r ∈ runs, r ≤ 25) →
      let p := pairs a.classCounts
      let heights := if stageWafer s = some i then s.focus.map.map (·.z) else []
      waferReportWords s i w a runs =
        [word (1 + 256 * (26 + p.length)), s.cmd.ms, w.lotNumber, word i,
         word (match w.outcome with | none => 0 | some o => o.code), word a.accepted, word a.done, word a.notFound,
         word a.sampledOut, word a.skipped, word a.outOfRange, word a.timedOut, word a.focusFailed,
         word a.predictedFocus, word a.noStrobe,
         word (if a.done = 0 then 0 else (roundDiv a.offsetSum (2 * a.done)).toNat),
         wordOfInt w.drift.x, wordOfInt w.drift.y,
         (match w.transform with | none => 0 | some t => wordOfInt t.a),
         (match w.transform with | none => 0 | some t => wordOfInt t.b),
         word w.align.used, (match w.prealign with | none => 0 | some p => p.notch),
         word heights.length, wordOfInt (roundDiv heights.sum heights.length),
         word (runs.getD 0 0 + 2 ^ 8 * runs.getD 1 0 + 2 ^ 16 * runs.getD 2 0 + 2 ^ 24 * runs.getD 3 0),
         word p.length] ++ p) ∧
   (∀ (s : State) (l : Lot) (a : LotAcc), classes a.totals →
      let p := pairs a.totals
      let ended := fun o : WaferOutcome => (List.range 50).countP fun i =>
        (waferAt s i).any fun w => w.run == l.run && w.outcome == some o
      let flag := fun n : Nat => if a.flags.getD n false then 2 ^ n else 0
      lotReportWords s l a =
        [word (2 + 256 * (13 + p.length)), s.cmd.ms, l.number,
         (match l.port with | none => 0 | some .one => 1 | some .two => 2),
         word (ended .complete), word (ended .aborted), word (ended .alignFailed), word (ended .prealignFailed),
         word (ended .cut), word (ended .notSelected + ended .slotEmpty),
         word (flag 0 + flag 1 + flag 2 + flag 3), (if a.saturated then 1 else 0), word p.length] ++ p) ∧
   (∀ t : Trace, t.samples.length ≤ 128 →
      let n := t.samples.length
      traceReportWords t = [word (3 + 256 * (6 + 2 * n)), t.lotNumber, word t.wafer, word t.entry, t.defectId, word n] ++
        t.samples.flatMap fun x => [x.z, word (x.quality.toNat + 256 * x.state.code)]))

/-! ## Reports -/

/-- R148: a DONE entry handed over adds |dx| + |dy| of its offset to the wafer's offset sum, whatever their size, and any
other entry adds nothing; with at most 1,024 entries and components of at most 2^31 the sum stays within 2^42. -/
def Obligations.OffsetSum : Prop :=
  (∀ (e : Entry) (a : WaferAcc),
     (∀ r, e.state = .done → e.result = some r →
       (countEntry e a).offsetSum = a.offsetSum + r.offset.x.natAbs + r.offset.y.natAbs) ∧
     (e.state ≠ .done → (countEntry e a).offsetSum = a.offsetSum)) ∧
  (∀ l : List Entry, l.length ≤ 1024 →
     (∀ e ∈ l, ∀ r, e.result = some r → r.offset.x.natAbs ≤ 2 ^ 31 ∧ r.offset.y.natAbs ≤ 2 ^ 31) →
     (l.foldl (fun a e => countEntry e a) WaferAcc.zero).offsetSum ≤ 2 ^ 42)
end

