-- ==== Sys2Proof/Laws/State.lean ====
section
/-! SUPPORT. What the named updates of State leave as it is: one lemma for each update and field, true by rfl. -/

namespace Sys2Proof.Machine

variable (s : State)

@[simp] theorem updWafer_mem (i : Nat) (f : Wafer → Wafer) : (updWafer i f s).mem = s.mem := rfl
@[simp] theorem updWafer_path (i : Nat) (f : Wafer → Wafer) : (updWafer i f s).path = s.path := rfl
@[simp] theorem updWafer_cmd (i : Nat) (f : Wafer → Wafer) : (updWafer i f s).cmd = s.cmd := rfl
@[simp] theorem updWafer_lots (i : Nat) (f : Wafer → Wafer) : (updWafer i f s).lots = s.lots := rfl
@[simp] theorem updWafer_handling (i : Nat) (f : Wafer → Wafer) : (updWafer i f s).handling = s.handling := rfl
@[simp] theorem updWafer_table (i : Nat) (f : Wafer → Wafer) : (updWafer i f s).table = s.table := rfl
@[simp] theorem updWafer_visit (i : Nat) (f : Wafer → Wafer) : (updWafer i f s).visit = s.visit := rfl
@[simp] theorem updWafer_focus (i : Nat) (f : Wafer → Wafer) : (updWafer i f s).focus = s.focus := rfl
@[simp] theorem updWafer_guard (i : Nat) (f : Wafer → Wafer) : (updWafer i f s).guard = s.guard := rfl
@[simp] theorem updWafer_report (i : Nat) (f : Wafer → Wafer) : (updWafer i f s).report = s.report := rfl
@[simp] theorem updWafer_out (i : Nat) (f : Wafer → Wafer) : (updWafer i f s).out = s.out := rfl
@[simp] theorem updWafer_nextRun (i : Nat) (f : Wafer → Wafer) : (updWafer i f s).nextRun = s.nextRun := rfl
@[simp] theorem updWafer_choices (i : Nat) (f : Wafer → Wafer) : (updWafer i f s).choices = s.choices := rfl
@[simp] theorem updWafer_pending (i : Nat) (f : Wafer → Wafer) : (updWafer i f s).pending = s.pending := rfl
@[simp] theorem updWafer_reads (i : Nat) (f : Wafer → Wafer) : (updWafer i f s).reads = s.reads := rfl

@[simp] theorem updLot_mem (run : Nat) (f : Lot → Lot) : (updLot run f s).mem = s.mem := rfl
@[simp] theorem updLot_path (run : Nat) (f : Lot → Lot) : (updLot run f s).path = s.path := rfl
@[simp] theorem updLot_cmd (run : Nat) (f : Lot → Lot) : (updLot run f s).cmd = s.cmd := rfl
@[simp] theorem updLot_wafers (run : Nat) (f : Lot → Lot) : (updLot run f s).wafers = s.wafers := rfl
@[simp] theorem updLot_handling (run : Nat) (f : Lot → Lot) : (updLot run f s).handling = s.handling := rfl
@[simp] theorem updLot_table (run : Nat) (f : Lot → Lot) : (updLot run f s).table = s.table := rfl
@[simp] theorem updLot_visit (run : Nat) (f : Lot → Lot) : (updLot run f s).visit = s.visit := rfl
@[simp] theorem updLot_focus (run : Nat) (f : Lot → Lot) : (updLot run f s).focus = s.focus := rfl
@[simp] theorem updLot_guard (run : Nat) (f : Lot → Lot) : (updLot run f s).guard = s.guard := rfl
@[simp] theorem updLot_report (run : Nat) (f : Lot → Lot) : (updLot run f s).report = s.report := rfl
@[simp] theorem updLot_out (run : Nat) (f : Lot → Lot) : (updLot run f s).out = s.out := rfl
@[simp] theorem updLot_nextRun (run : Nat) (f : Lot → Lot) : (updLot run f s).nextRun = s.nextRun := rfl
@[simp] theorem updLot_choices (run : Nat) (f : Lot → Lot) : (updLot run f s).choices = s.choices := rfl
@[simp] theorem updLot_pending (run : Nat) (f : Lot → Lot) : (updLot run f s).pending = s.pending := rfl
@[simp] theorem updLot_reads (run : Nat) (f : Lot → Lot) : (updLot run f s).reads = s.reads := rfl

@[simp] theorem updEntry_mem (i : Nat) (f : Entry → Entry) : (updEntry i f s).mem = s.mem := rfl
@[simp] theorem updEntry_path (i : Nat) (f : Entry → Entry) : (updEntry i f s).path = s.path := rfl
@[simp] theorem updEntry_cmd (i : Nat) (f : Entry → Entry) : (updEntry i f s).cmd = s.cmd := rfl
@[simp] theorem updEntry_lots (i : Nat) (f : Entry → Entry) : (updEntry i f s).lots = s.lots := rfl
@[simp] theorem updEntry_wafers (i : Nat) (f : Entry → Entry) : (updEntry i f s).wafers = s.wafers := rfl
@[simp] theorem updEntry_handling (i : Nat) (f : Entry → Entry) : (updEntry i f s).handling = s.handling := rfl
@[simp] theorem updEntry_visit (i : Nat) (f : Entry → Entry) : (updEntry i f s).visit = s.visit := rfl
@[simp] theorem updEntry_focus (i : Nat) (f : Entry → Entry) : (updEntry i f s).focus = s.focus := rfl
@[simp] theorem updEntry_guard (i : Nat) (f : Entry → Entry) : (updEntry i f s).guard = s.guard := rfl
@[simp] theorem updEntry_report (i : Nat) (f : Entry → Entry) : (updEntry i f s).report = s.report := rfl
@[simp] theorem updEntry_out (i : Nat) (f : Entry → Entry) : (updEntry i f s).out = s.out := rfl
@[simp] theorem updEntry_nextRun (i : Nat) (f : Entry → Entry) : (updEntry i f s).nextRun = s.nextRun := rfl
@[simp] theorem updEntry_choices (i : Nat) (f : Entry → Entry) : (updEntry i f s).choices = s.choices := rfl
@[simp] theorem updEntry_pending (i : Nat) (f : Entry → Entry) : (updEntry i f s).pending = s.pending := rfl
@[simp] theorem updEntry_reads (i : Nat) (f : Entry → Entry) : (updEntry i f s).reads = s.reads := rfl

@[simp] theorem pushJob_mem (j : Job) : (pushJob j s).mem = s.mem := rfl
@[simp] theorem pushJob_cmd (j : Job) : (pushJob j s).cmd = s.cmd := rfl
@[simp] theorem pushJob_lots (j : Job) : (pushJob j s).lots = s.lots := rfl
@[simp] theorem pushJob_wafers (j : Job) : (pushJob j s).wafers = s.wafers := rfl
@[simp] theorem pushJob_handling (j : Job) : (pushJob j s).handling = s.handling := rfl
@[simp] theorem pushJob_table (j : Job) : (pushJob j s).table = s.table := rfl
@[simp] theorem pushJob_visit (j : Job) : (pushJob j s).visit = s.visit := rfl
@[simp] theorem pushJob_focus (j : Job) : (pushJob j s).focus = s.focus := rfl
@[simp] theorem pushJob_guard (j : Job) : (pushJob j s).guard = s.guard := rfl
@[simp] theorem pushJob_report (j : Job) : (pushJob j s).report = s.report := rfl
@[simp] theorem pushJob_out (j : Job) : (pushJob j s).out = s.out := rfl
@[simp] theorem pushJob_nextRun (j : Job) : (pushJob j s).nextRun = s.nextRun := rfl
@[simp] theorem pushJob_choices (j : Job) : (pushJob j s).choices = s.choices := rfl
@[simp] theorem pushJob_pending (j : Job) : (pushJob j s).pending = s.pending := rfl
@[simp] theorem pushJob_reads (j : Job) : (pushJob j s).reads = s.reads := rfl

@[simp] theorem noteWait_mem : (noteWait s).mem = s.mem := rfl
@[simp] theorem noteWait_cmd : (noteWait s).cmd = s.cmd := rfl
@[simp] theorem noteWait_lots : (noteWait s).lots = s.lots := rfl
@[simp] theorem noteWait_wafers : (noteWait s).wafers = s.wafers := rfl
@[simp] theorem noteWait_handling : (noteWait s).handling = s.handling := rfl
@[simp] theorem noteWait_table : (noteWait s).table = s.table := rfl
@[simp] theorem noteWait_visit : (noteWait s).visit = s.visit := rfl
@[simp] theorem noteWait_focus : (noteWait s).focus = s.focus := rfl
@[simp] theorem noteWait_guard : (noteWait s).guard = s.guard := rfl
@[simp] theorem noteWait_report : (noteWait s).report = s.report := rfl
@[simp] theorem noteWait_out : (noteWait s).out = s.out := rfl
@[simp] theorem noteWait_nextRun : (noteWait s).nextRun = s.nextRun := rfl
@[simp] theorem noteWait_choices : (noteWait s).choices = s.choices := rfl
@[simp] theorem noteWait_pending : (noteWait s).pending = s.pending := rfl
@[simp] theorem noteWait_reads : (noteWait s).reads = s.reads := rfl
@[simp] theorem noteWait_path_mode : (noteWait s).path.mode = s.path.mode := rfl
@[simp] theorem noteWait_path_zones : (noteWait s).path.zones = s.path.zones := rfl
@[simp] theorem noteWait_path_drops : (noteWait s).path.drops = s.path.drops := rfl
@[simp] theorem noteWait_path_reported : (noteWait s).path.reported = s.path.reported := rfl
@[simp] theorem noteWait_path_lastDrop : (noteWait s).path.lastDrop = s.path.lastDrop := rfl
@[simp] theorem noteWait_path_held : (noteWait s).path.held = s.path.held := rfl
@[simp] theorem noteWait_path_reloadPending : (noteWait s).path.reloadPending = s.path.reloadPending := rfl
@[simp] theorem noteWait_path_draining : (noteWait s).path.draining = s.path.draining := rfl
@[simp] theorem noteWait_path_upWait : (noteWait s).path.upWait = s.path.upWait := rfl
@[simp] theorem noteWait_path_upBurst : (noteWait s).path.upBurst = s.path.upBurst := rfl
@[simp] theorem noteWait_path_answered : (noteWait s).path.answered = s.path.answered := rfl
@[simp] theorem noteWait_path_jobs : (noteWait s).path.jobs = s.path.jobs := rfl

@[simp] theorem noteReport_mem : (noteReport s).mem = s.mem := rfl
@[simp] theorem noteReport_cmd : (noteReport s).cmd = s.cmd := rfl
@[simp] theorem noteReport_lots : (noteReport s).lots = s.lots := rfl
@[simp] theorem noteReport_wafers : (noteReport s).wafers = s.wafers := rfl
@[simp] theorem noteReport_handling : (noteReport s).handling = s.handling := rfl
@[simp] theorem noteReport_table : (noteReport s).table = s.table := rfl
@[simp] theorem noteReport_visit : (noteReport s).visit = s.visit := rfl
@[simp] theorem noteReport_focus : (noteReport s).focus = s.focus := rfl
@[simp] theorem noteReport_guard : (noteReport s).guard = s.guard := rfl
@[simp] theorem noteReport_report : (noteReport s).report = s.report := rfl
@[simp] theorem noteReport_out : (noteReport s).out = s.out := rfl
@[simp] theorem noteReport_nextRun : (noteReport s).nextRun = s.nextRun := rfl
@[simp] theorem noteReport_choices : (noteReport s).choices = s.choices := rfl
@[simp] theorem noteReport_pending : (noteReport s).pending = s.pending := rfl
@[simp] theorem noteReport_reads : (noteReport s).reads = s.reads := rfl
@[simp] theorem noteReport_path_mode : (noteReport s).path.mode = s.path.mode := rfl
@[simp] theorem noteReport_path_zones : (noteReport s).path.zones = s.path.zones := rfl
@[simp] theorem noteReport_path_drops : (noteReport s).path.drops = s.path.drops := rfl
@[simp] theorem noteReport_path_reported : (noteReport s).path.reported = s.path.reported := rfl
@[simp] theorem noteReport_path_lastDrop : (noteReport s).path.lastDrop = s.path.lastDrop := rfl
@[simp] theorem noteReport_path_held : (noteReport s).path.held = s.path.held := rfl
@[simp] theorem noteReport_path_reloadPending : (noteReport s).path.reloadPending = s.path.reloadPending := rfl
@[simp] theorem noteReport_path_draining : (noteReport s).path.draining = s.path.draining := rfl
@[simp] theorem noteReport_path_upWait : (noteReport s).path.upWait = s.path.upWait := rfl
@[simp] theorem noteReport_path_upBurst : (noteReport s).path.upBurst = s.path.upBurst := rfl
@[simp] theorem noteReport_path_answered : (noteReport s).path.answered = s.path.answered := rfl
@[simp] theorem noteReport_path_jobs : (noteReport s).path.jobs = s.path.jobs := rfl

@[simp] theorem beginWait_mem (p : Producer) : (beginWait p s).mem = s.mem := rfl
@[simp] theorem beginWait_cmd (p : Producer) : (beginWait p s).cmd = s.cmd := rfl
@[simp] theorem beginWait_lots (p : Producer) : (beginWait p s).lots = s.lots := rfl
@[simp] theorem beginWait_wafers (p : Producer) : (beginWait p s).wafers = s.wafers := rfl
@[simp] theorem beginWait_handling (p : Producer) : (beginWait p s).handling = s.handling := rfl
@[simp] theorem beginWait_table (p : Producer) : (beginWait p s).table = s.table := rfl
@[simp] theorem beginWait_visit (p : Producer) : (beginWait p s).visit = s.visit := rfl
@[simp] theorem beginWait_focus (p : Producer) : (beginWait p s).focus = s.focus := rfl
@[simp] theorem beginWait_guard (p : Producer) : (beginWait p s).guard = s.guard := rfl
@[simp] theorem beginWait_report (p : Producer) : (beginWait p s).report = s.report := rfl
@[simp] theorem beginWait_out (p : Producer) : (beginWait p s).out = s.out := rfl
@[simp] theorem beginWait_nextRun (p : Producer) : (beginWait p s).nextRun = s.nextRun := rfl
@[simp] theorem beginWait_choices (p : Producer) : (beginWait p s).choices = s.choices := rfl
@[simp] theorem beginWait_pending (p : Producer) : (beginWait p s).pending = s.pending := rfl
@[simp] theorem beginWait_reads (p : Producer) : (beginWait p s).reads = s.reads := rfl

@[simp] theorem pushJob_path_mode (j : Job) : (pushJob j s).path.mode = s.path.mode := rfl
@[simp] theorem pushJob_path_zones (j : Job) : (pushJob j s).path.zones = s.path.zones := rfl
@[simp] theorem pushJob_path_drops (j : Job) : (pushJob j s).path.drops = s.path.drops := rfl
@[simp] theorem pushJob_path_reported (j : Job) : (pushJob j s).path.reported = s.path.reported := rfl
@[simp] theorem pushJob_path_lastDrop (j : Job) : (pushJob j s).path.lastDrop = s.path.lastDrop := rfl
@[simp] theorem pushJob_path_held (j : Job) : (pushJob j s).path.held = s.path.held := rfl
@[simp] theorem pushJob_path_reloadPending (j : Job) : (pushJob j s).path.reloadPending = s.path.reloadPending := rfl
@[simp] theorem pushJob_path_draining (j : Job) : (pushJob j s).path.draining = s.path.draining := rfl
@[simp] theorem pushJob_path_upWait (j : Job) : (pushJob j s).path.upWait = s.path.upWait := rfl
@[simp] theorem pushJob_path_upBurst (j : Job) : (pushJob j s).path.upBurst = s.path.upBurst := rfl
@[simp] theorem pushJob_path_answered (j : Job) : (pushJob j s).path.answered = s.path.answered := rfl

@[simp] theorem endWait_mem (p : Producer) : (endWait p s).mem = s.mem := rfl
@[simp] theorem endWait_cmd (p : Producer) : (endWait p s).cmd = s.cmd := rfl
@[simp] theorem endWait_lots (p : Producer) : (endWait p s).lots = s.lots := rfl
@[simp] theorem endWait_wafers (p : Producer) : (endWait p s).wafers = s.wafers := rfl
@[simp] theorem endWait_handling (p : Producer) : (endWait p s).handling = s.handling := rfl
@[simp] theorem endWait_table (p : Producer) : (endWait p s).table = s.table := rfl
@[simp] theorem endWait_visit (p : Producer) : (endWait p s).visit = s.visit := rfl
@[simp] theorem endWait_focus (p : Producer) : (endWait p s).focus = s.focus := rfl
@[simp] theorem endWait_guard (p : Producer) : (endWait p s).guard = s.guard := rfl
@[simp] theorem endWait_report (p : Producer) : (endWait p s).report = s.report := rfl
@[simp] theorem endWait_out (p : Producer) : (endWait p s).out = s.out := rfl
@[simp] theorem endWait_nextRun (p : Producer) : (endWait p s).nextRun = s.nextRun := rfl
@[simp] theorem endWait_choices (p : Producer) : (endWait p s).choices = s.choices := rfl
@[simp] theorem endWait_pending (p : Producer) : (endWait p s).pending = s.pending := rfl
@[simp] theorem endWait_reads (p : Producer) : (endWait p s).reads = s.reads := rfl

@[simp] theorem send_mem (m : LinkMessage) : (send m s).mem = s.mem := rfl
@[simp] theorem send_path (m : LinkMessage) : (send m s).path = s.path := rfl
@[simp] theorem send_cmd (m : LinkMessage) : (send m s).cmd = s.cmd := rfl
@[simp] theorem send_lots (m : LinkMessage) : (send m s).lots = s.lots := rfl
@[simp] theorem send_wafers (m : LinkMessage) : (send m s).wafers = s.wafers := rfl
@[simp] theorem send_handling (m : LinkMessage) : (send m s).handling = s.handling := rfl
@[simp] theorem send_table (m : LinkMessage) : (send m s).table = s.table := rfl
@[simp] theorem send_visit (m : LinkMessage) : (send m s).visit = s.visit := rfl
@[simp] theorem send_focus (m : LinkMessage) : (send m s).focus = s.focus := rfl
@[simp] theorem send_guard (m : LinkMessage) : (send m s).guard = s.guard := rfl
@[simp] theorem send_report (m : LinkMessage) : (send m s).report = s.report := rfl
@[simp] theorem send_nextRun (m : LinkMessage) : (send m s).nextRun = s.nextRun := rfl
@[simp] theorem send_choices (m : LinkMessage) : (send m s).choices = s.choices := rfl
@[simp] theorem send_pending (m : LinkMessage) : (send m s).pending = s.pending := rfl
@[simp] theorem send_reads (m : LinkMessage) : (send m s).reads = s.reads := rfl

@[simp] theorem wantPlan_mem : (wantPlan s).mem = s.mem := rfl
@[simp] theorem wantPlan_path : (wantPlan s).path = s.path := rfl
@[simp] theorem wantPlan_cmd : (wantPlan s).cmd = s.cmd := rfl
@[simp] theorem wantPlan_lots : (wantPlan s).lots = s.lots := rfl
@[simp] theorem wantPlan_wafers : (wantPlan s).wafers = s.wafers := rfl
@[simp] theorem wantPlan_table : (wantPlan s).table = s.table := rfl
@[simp] theorem wantPlan_visit : (wantPlan s).visit = s.visit := rfl
@[simp] theorem wantPlan_focus : (wantPlan s).focus = s.focus := rfl
@[simp] theorem wantPlan_guard : (wantPlan s).guard = s.guard := rfl
@[simp] theorem wantPlan_report : (wantPlan s).report = s.report := rfl
@[simp] theorem wantPlan_out : (wantPlan s).out = s.out := rfl
@[simp] theorem wantPlan_nextRun : (wantPlan s).nextRun = s.nextRun := rfl
@[simp] theorem wantPlan_choices : (wantPlan s).choices = s.choices := rfl
@[simp] theorem wantPlan_pending : (wantPlan s).pending = s.pending := rfl
@[simp] theorem wantPlan_reads : (wantPlan s).reads = s.reads := rfl

@[simp] theorem setCause_mem (c : Category) : (setCause c s).mem = s.mem := rfl
@[simp] theorem setCause_path (c : Category) : (setCause c s).path = s.path := rfl
@[simp] theorem setCause_lots (c : Category) : (setCause c s).lots = s.lots := rfl
@[simp] theorem setCause_wafers (c : Category) : (setCause c s).wafers = s.wafers := rfl
@[simp] theorem setCause_handling (c : Category) : (setCause c s).handling = s.handling := rfl
@[simp] theorem setCause_table (c : Category) : (setCause c s).table = s.table := rfl
@[simp] theorem setCause_visit (c : Category) : (setCause c s).visit = s.visit := rfl
@[simp] theorem setCause_focus (c : Category) : (setCause c s).focus = s.focus := rfl
@[simp] theorem setCause_guard (c : Category) : (setCause c s).guard = s.guard := rfl
@[simp] theorem setCause_report (c : Category) : (setCause c s).report = s.report := rfl
@[simp] theorem setCause_out (c : Category) : (setCause c s).out = s.out := rfl
@[simp] theorem setCause_nextRun (c : Category) : (setCause c s).nextRun = s.nextRun := rfl
@[simp] theorem setCause_choices (c : Category) : (setCause c s).choices = s.choices := rfl
@[simp] theorem setCause_pending (c : Category) : (setCause c s).pending = s.pending := rfl
@[simp] theorem setCause_reads (c : Category) : (setCause c s).reads = s.reads := rfl

@[simp] theorem setHandling_mem (h : HandlingState) : (setHandling h s).mem = s.mem := rfl
@[simp] theorem setHandling_path (h : HandlingState) : (setHandling h s).path = s.path := rfl
@[simp] theorem setHandling_cmd (h : HandlingState) : (setHandling h s).cmd = s.cmd := rfl
@[simp] theorem setHandling_lots (h : HandlingState) : (setHandling h s).lots = s.lots := rfl
@[simp] theorem setHandling_wafers (h : HandlingState) : (setHandling h s).wafers = s.wafers := rfl
@[simp] theorem setHandling_table (h : HandlingState) : (setHandling h s).table = s.table := rfl
@[simp] theorem setHandling_visit (h : HandlingState) : (setHandling h s).visit = s.visit := rfl
@[simp] theorem setHandling_focus (h : HandlingState) : (setHandling h s).focus = s.focus := rfl
@[simp] theorem setHandling_guard (h : HandlingState) : (setHandling h s).guard = s.guard := rfl
@[simp] theorem setHandling_report (h : HandlingState) : (setHandling h s).report = s.report := rfl
@[simp] theorem setHandling_out (h : HandlingState) : (setHandling h s).out = s.out := rfl
@[simp] theorem setHandling_nextRun (h : HandlingState) : (setHandling h s).nextRun = s.nextRun := rfl
@[simp] theorem setHandling_choices (h : HandlingState) : (setHandling h s).choices = s.choices := rfl
@[simp] theorem setHandling_pending (h : HandlingState) : (setHandling h s).pending = s.pending := rfl
@[simp] theorem setHandling_reads (h : HandlingState) : (setHandling h s).reads = s.reads := rfl

@[simp] theorem clearOrder_mem : (clearOrder s).mem = s.mem := rfl
@[simp] theorem clearOrder_path : (clearOrder s).path = s.path := rfl
@[simp] theorem clearOrder_cmd : (clearOrder s).cmd = s.cmd := rfl
@[simp] theorem clearOrder_lots : (clearOrder s).lots = s.lots := rfl
@[simp] theorem clearOrder_wafers : (clearOrder s).wafers = s.wafers := rfl
@[simp] theorem clearOrder_table : (clearOrder s).table = s.table := rfl
@[simp] theorem clearOrder_visit : (clearOrder s).visit = s.visit := rfl
@[simp] theorem clearOrder_focus : (clearOrder s).focus = s.focus := rfl
@[simp] theorem clearOrder_guard : (clearOrder s).guard = s.guard := rfl
@[simp] theorem clearOrder_report : (clearOrder s).report = s.report := rfl
@[simp] theorem clearOrder_out : (clearOrder s).out = s.out := rfl
@[simp] theorem clearOrder_nextRun : (clearOrder s).nextRun = s.nextRun := rfl
@[simp] theorem clearOrder_choices : (clearOrder s).choices = s.choices := rfl
@[simp] theorem clearOrder_pending : (clearOrder s).pending = s.pending := rfl
@[simp] theorem clearOrder_reads : (clearOrder s).reads = s.reads := rfl

@[simp] theorem clearPrealign_mem : (clearPrealign s).mem = s.mem := rfl
@[simp] theorem clearPrealign_path : (clearPrealign s).path = s.path := rfl
@[simp] theorem clearPrealign_cmd : (clearPrealign s).cmd = s.cmd := rfl
@[simp] theorem clearPrealign_lots : (clearPrealign s).lots = s.lots := rfl
@[simp] theorem clearPrealign_wafers : (clearPrealign s).wafers = s.wafers := rfl
@[simp] theorem clearPrealign_table : (clearPrealign s).table = s.table := rfl
@[simp] theorem clearPrealign_visit : (clearPrealign s).visit = s.visit := rfl
@[simp] theorem clearPrealign_focus : (clearPrealign s).focus = s.focus := rfl
@[simp] theorem clearPrealign_guard : (clearPrealign s).guard = s.guard := rfl
@[simp] theorem clearPrealign_report : (clearPrealign s).report = s.report := rfl
@[simp] theorem clearPrealign_out : (clearPrealign s).out = s.out := rfl
@[simp] theorem clearPrealign_nextRun : (clearPrealign s).nextRun = s.nextRun := rfl
@[simp] theorem clearPrealign_choices : (clearPrealign s).choices = s.choices := rfl
@[simp] theorem clearPrealign_pending : (clearPrealign s).pending = s.pending := rfl
@[simp] theorem clearPrealign_reads : (clearPrealign s).reads = s.reads := rfl

@[simp] theorem dropPrealign_mem (i : Nat) : (dropPrealign i s).mem = s.mem := rfl
@[simp] theorem dropPrealign_path (i : Nat) : (dropPrealign i s).path = s.path := rfl
@[simp] theorem dropPrealign_cmd (i : Nat) : (dropPrealign i s).cmd = s.cmd := rfl
@[simp] theorem dropPrealign_lots (i : Nat) : (dropPrealign i s).lots = s.lots := rfl
@[simp] theorem dropPrealign_wafers (i : Nat) : (dropPrealign i s).wafers = s.wafers := rfl
@[simp] theorem dropPrealign_table (i : Nat) : (dropPrealign i s).table = s.table := rfl
@[simp] theorem dropPrealign_visit (i : Nat) : (dropPrealign i s).visit = s.visit := rfl
@[simp] theorem dropPrealign_focus (i : Nat) : (dropPrealign i s).focus = s.focus := rfl
@[simp] theorem dropPrealign_guard (i : Nat) : (dropPrealign i s).guard = s.guard := rfl
@[simp] theorem dropPrealign_report (i : Nat) : (dropPrealign i s).report = s.report := rfl
@[simp] theorem dropPrealign_out (i : Nat) : (dropPrealign i s).out = s.out := rfl
@[simp] theorem dropPrealign_nextRun (i : Nat) : (dropPrealign i s).nextRun = s.nextRun := rfl
@[simp] theorem dropPrealign_choices (i : Nat) : (dropPrealign i s).choices = s.choices := rfl
@[simp] theorem dropPrealign_pending (i : Nat) : (dropPrealign i s).pending = s.pending := rfl
@[simp] theorem dropPrealign_reads (i : Nat) : (dropPrealign i s).reads = s.reads := rfl

@[simp] theorem dropAttempt_mem (i : Nat) : (dropAttempt i s).mem = s.mem := rfl
@[simp] theorem dropAttempt_path (i : Nat) : (dropAttempt i s).path = s.path := rfl
@[simp] theorem dropAttempt_cmd (i : Nat) : (dropAttempt i s).cmd = s.cmd := rfl
@[simp] theorem dropAttempt_lots (i : Nat) : (dropAttempt i s).lots = s.lots := rfl
@[simp] theorem dropAttempt_handling (i : Nat) : (dropAttempt i s).handling = s.handling := rfl
@[simp] theorem dropAttempt_table (i : Nat) : (dropAttempt i s).table = s.table := rfl
@[simp] theorem dropAttempt_visit (i : Nat) : (dropAttempt i s).visit = s.visit := rfl
@[simp] theorem dropAttempt_focus (i : Nat) : (dropAttempt i s).focus = s.focus := rfl
@[simp] theorem dropAttempt_guard (i : Nat) : (dropAttempt i s).guard = s.guard := rfl
@[simp] theorem dropAttempt_report (i : Nat) : (dropAttempt i s).report = s.report := rfl
@[simp] theorem dropAttempt_out (i : Nat) : (dropAttempt i s).out = s.out := rfl
@[simp] theorem dropAttempt_nextRun (i : Nat) : (dropAttempt i s).nextRun = s.nextRun := rfl
@[simp] theorem dropAttempt_choices (i : Nat) : (dropAttempt i s).choices = s.choices := rfl
@[simp] theorem dropAttempt_pending (i : Nat) : (dropAttempt i s).pending = s.pending := rfl
@[simp] theorem dropAttempt_reads (i : Nat) : (dropAttempt i s).reads = s.reads := rfl

@[simp] theorem releaseAlign_mem (i : Nat) : (releaseAlign i s).mem = s.mem := rfl
@[simp] theorem releaseAlign_path (i : Nat) : (releaseAlign i s).path = s.path := rfl
@[simp] theorem releaseAlign_cmd (i : Nat) : (releaseAlign i s).cmd = s.cmd := rfl
@[simp] theorem releaseAlign_lots (i : Nat) : (releaseAlign i s).lots = s.lots := rfl
@[simp] theorem releaseAlign_wafers (i : Nat) : (releaseAlign i s).wafers = s.wafers := rfl
@[simp] theorem releaseAlign_handling (i : Nat) : (releaseAlign i s).handling = s.handling := rfl
@[simp] theorem releaseAlign_table (i : Nat) : (releaseAlign i s).table = s.table := rfl
@[simp] theorem releaseAlign_focus (i : Nat) : (releaseAlign i s).focus = s.focus := rfl
@[simp] theorem releaseAlign_guard (i : Nat) : (releaseAlign i s).guard = s.guard := rfl
@[simp] theorem releaseAlign_report (i : Nat) : (releaseAlign i s).report = s.report := rfl
@[simp] theorem releaseAlign_out (i : Nat) : (releaseAlign i s).out = s.out := rfl
@[simp] theorem releaseAlign_nextRun (i : Nat) : (releaseAlign i s).nextRun = s.nextRun := rfl
@[simp] theorem releaseAlign_choices (i : Nat) : (releaseAlign i s).choices = s.choices := rfl
@[simp] theorem releaseAlign_pending (i : Nat) : (releaseAlign i s).pending = s.pending := rfl
@[simp] theorem releaseAlign_reads (i : Nat) : (releaseAlign i s).reads = s.reads := rfl

@[simp] theorem setVisit_mem (v : Visit) : (setVisit v s).mem = s.mem := rfl
@[simp] theorem setVisit_path (v : Visit) : (setVisit v s).path = s.path := rfl
@[simp] theorem setVisit_cmd (v : Visit) : (setVisit v s).cmd = s.cmd := rfl
@[simp] theorem setVisit_lots (v : Visit) : (setVisit v s).lots = s.lots := rfl
@[simp] theorem setVisit_wafers (v : Visit) : (setVisit v s).wafers = s.wafers := rfl
@[simp] theorem setVisit_handling (v : Visit) : (setVisit v s).handling = s.handling := rfl
@[simp] theorem setVisit_focus (v : Visit) : (setVisit v s).focus = s.focus := rfl
@[simp] theorem setVisit_guard (v : Visit) : (setVisit v s).guard = s.guard := rfl
@[simp] theorem setVisit_report (v : Visit) : (setVisit v s).report = s.report := rfl
@[simp] theorem setVisit_out (v : Visit) : (setVisit v s).out = s.out := rfl
@[simp] theorem setVisit_nextRun (v : Visit) : (setVisit v s).nextRun = s.nextRun := rfl
@[simp] theorem setVisit_choices (v : Visit) : (setVisit v s).choices = s.choices := rfl
@[simp] theorem setVisit_pending (v : Visit) : (setVisit v s).pending = s.pending := rfl
@[simp] theorem setVisit_reads (v : Visit) : (setVisit v s).reads = s.reads := rfl

@[simp] theorem endMove_mem : (endMove s).mem = s.mem := rfl
@[simp] theorem endMove_path : (endMove s).path = s.path := rfl
@[simp] theorem endMove_cmd : (endMove s).cmd = s.cmd := rfl
@[simp] theorem endMove_lots : (endMove s).lots = s.lots := rfl
@[simp] theorem endMove_wafers : (endMove s).wafers = s.wafers := rfl
@[simp] theorem endMove_handling : (endMove s).handling = s.handling := rfl
@[simp] theorem endMove_table : (endMove s).table = s.table := rfl
@[simp] theorem endMove_focus : (endMove s).focus = s.focus := rfl
@[simp] theorem endMove_guard : (endMove s).guard = s.guard := rfl
@[simp] theorem endMove_report : (endMove s).report = s.report := rfl
@[simp] theorem endMove_out : (endMove s).out = s.out := rfl
@[simp] theorem endMove_nextRun : (endMove s).nextRun = s.nextRun := rfl
@[simp] theorem endMove_choices : (endMove s).choices = s.choices := rfl
@[simp] theorem endMove_pending : (endMove s).pending = s.pending := rfl
@[simp] theorem endMove_reads : (endMove s).reads = s.reads := rfl

@[simp] theorem holdStage_mem : (holdStage s).mem = s.mem := rfl
@[simp] theorem holdStage_path : (holdStage s).path = s.path := rfl
@[simp] theorem holdStage_cmd : (holdStage s).cmd = s.cmd := rfl
@[simp] theorem holdStage_lots : (holdStage s).lots = s.lots := rfl
@[simp] theorem holdStage_wafers : (holdStage s).wafers = s.wafers := rfl
@[simp] theorem holdStage_handling : (holdStage s).handling = s.handling := rfl
@[simp] theorem holdStage_table : (holdStage s).table = s.table := rfl
@[simp] theorem holdStage_focus : (holdStage s).focus = s.focus := rfl
@[simp] theorem holdStage_guard : (holdStage s).guard = s.guard := rfl
@[simp] theorem holdStage_report : (holdStage s).report = s.report := rfl
@[simp] theorem holdStage_out : (holdStage s).out = s.out := rfl
@[simp] theorem holdStage_nextRun : (holdStage s).nextRun = s.nextRun := rfl
@[simp] theorem holdStage_choices : (holdStage s).choices = s.choices := rfl
@[simp] theorem holdStage_pending : (holdStage s).pending = s.pending := rfl
@[simp] theorem holdStage_reads : (holdStage s).reads = s.reads := rfl

@[simp] theorem takePosition_mem (p : Point) : (takePosition p s).mem = s.mem := rfl
@[simp] theorem takePosition_path (p : Point) : (takePosition p s).path = s.path := rfl
@[simp] theorem takePosition_cmd (p : Point) : (takePosition p s).cmd = s.cmd := rfl
@[simp] theorem takePosition_lots (p : Point) : (takePosition p s).lots = s.lots := rfl
@[simp] theorem takePosition_wafers (p : Point) : (takePosition p s).wafers = s.wafers := rfl
@[simp] theorem takePosition_handling (p : Point) : (takePosition p s).handling = s.handling := rfl
@[simp] theorem takePosition_table (p : Point) : (takePosition p s).table = s.table := rfl
@[simp] theorem takePosition_focus (p : Point) : (takePosition p s).focus = s.focus := rfl
@[simp] theorem takePosition_guard (p : Point) : (takePosition p s).guard = s.guard := rfl
@[simp] theorem takePosition_report (p : Point) : (takePosition p s).report = s.report := rfl
@[simp] theorem takePosition_out (p : Point) : (takePosition p s).out = s.out := rfl
@[simp] theorem takePosition_nextRun (p : Point) : (takePosition p s).nextRun = s.nextRun := rfl
@[simp] theorem takePosition_choices (p : Point) : (takePosition p s).choices = s.choices := rfl
@[simp] theorem takePosition_pending (p : Point) : (takePosition p s).pending = s.pending := rfl
@[simp] theorem takePosition_reads (p : Point) : (takePosition p s).reads = s.reads := rfl

@[simp] theorem focusIdle_mem : (focusIdle s).mem = s.mem := rfl
@[simp] theorem focusIdle_path : (focusIdle s).path = s.path := rfl
@[simp] theorem focusIdle_cmd : (focusIdle s).cmd = s.cmd := rfl
@[simp] theorem focusIdle_lots : (focusIdle s).lots = s.lots := rfl
@[simp] theorem focusIdle_wafers : (focusIdle s).wafers = s.wafers := rfl
@[simp] theorem focusIdle_handling : (focusIdle s).handling = s.handling := rfl
@[simp] theorem focusIdle_table : (focusIdle s).table = s.table := rfl
@[simp] theorem focusIdle_visit : (focusIdle s).visit = s.visit := rfl
@[simp] theorem focusIdle_guard : (focusIdle s).guard = s.guard := rfl
@[simp] theorem focusIdle_report : (focusIdle s).report = s.report := rfl
@[simp] theorem focusIdle_out : (focusIdle s).out = s.out := rfl
@[simp] theorem focusIdle_nextRun : (focusIdle s).nextRun = s.nextRun := rfl
@[simp] theorem focusIdle_choices : (focusIdle s).choices = s.choices := rfl
@[simp] theorem focusIdle_pending : (focusIdle s).pending = s.pending := rfl
@[simp] theorem focusIdle_reads : (focusIdle s).reads = s.reads := rfl

@[simp] theorem recordStrobe_mem : (recordStrobe s).mem = s.mem := rfl
@[simp] theorem recordStrobe_path : (recordStrobe s).path = s.path := rfl
@[simp] theorem recordStrobe_cmd : (recordStrobe s).cmd = s.cmd := rfl
@[simp] theorem recordStrobe_lots : (recordStrobe s).lots = s.lots := rfl
@[simp] theorem recordStrobe_wafers : (recordStrobe s).wafers = s.wafers := rfl
@[simp] theorem recordStrobe_handling : (recordStrobe s).handling = s.handling := rfl
@[simp] theorem recordStrobe_table : (recordStrobe s).table = s.table := rfl
@[simp] theorem recordStrobe_visit : (recordStrobe s).visit = s.visit := rfl
@[simp] theorem recordStrobe_guard : (recordStrobe s).guard = s.guard := rfl
@[simp] theorem recordStrobe_report : (recordStrobe s).report = s.report := rfl
@[simp] theorem recordStrobe_out : (recordStrobe s).out = s.out := rfl
@[simp] theorem recordStrobe_nextRun : (recordStrobe s).nextRun = s.nextRun := rfl
@[simp] theorem recordStrobe_choices : (recordStrobe s).choices = s.choices := rfl
@[simp] theorem recordStrobe_pending : (recordStrobe s).pending = s.pending := rfl
@[simp] theorem recordStrobe_reads : (recordStrobe s).reads = s.reads := rfl

@[simp] theorem renewBounds_mem : (renewBounds s).mem = s.mem := rfl
@[simp] theorem renewBounds_path : (renewBounds s).path = s.path := rfl
@[simp] theorem renewBounds_cmd : (renewBounds s).cmd = s.cmd := rfl
@[simp] theorem renewBounds_lots : (renewBounds s).lots = s.lots := rfl
@[simp] theorem renewBounds_wafers : (renewBounds s).wafers = s.wafers := rfl
@[simp] theorem renewBounds_handling : (renewBounds s).handling = s.handling := rfl
@[simp] theorem renewBounds_table : (renewBounds s).table = s.table := rfl
@[simp] theorem renewBounds_visit : (renewBounds s).visit = s.visit := rfl
@[simp] theorem renewBounds_guard : (renewBounds s).guard = s.guard := rfl
@[simp] theorem renewBounds_report : (renewBounds s).report = s.report := rfl
@[simp] theorem renewBounds_out : (renewBounds s).out = s.out := rfl
@[simp] theorem renewBounds_nextRun : (renewBounds s).nextRun = s.nextRun := rfl
@[simp] theorem renewBounds_choices : (renewBounds s).choices = s.choices := rfl
@[simp] theorem renewBounds_pending : (renewBounds s).pending = s.pending := rfl
@[simp] theorem renewBounds_reads : (renewBounds s).reads = s.reads := rfl

@[simp] theorem takePoint_mem (p : Point) (z : Int) : (takePoint p z s).mem = s.mem := rfl
@[simp] theorem takePoint_path (p : Point) (z : Int) : (takePoint p z s).path = s.path := rfl
@[simp] theorem takePoint_cmd (p : Point) (z : Int) : (takePoint p z s).cmd = s.cmd := rfl
@[simp] theorem takePoint_lots (p : Point) (z : Int) : (takePoint p z s).lots = s.lots := rfl
@[simp] theorem takePoint_wafers (p : Point) (z : Int) : (takePoint p z s).wafers = s.wafers := rfl
@[simp] theorem takePoint_handling (p : Point) (z : Int) : (takePoint p z s).handling = s.handling := rfl
@[simp] theorem takePoint_table (p : Point) (z : Int) : (takePoint p z s).table = s.table := rfl
@[simp] theorem takePoint_visit (p : Point) (z : Int) : (takePoint p z s).visit = s.visit := rfl
@[simp] theorem takePoint_guard (p : Point) (z : Int) : (takePoint p z s).guard = s.guard := rfl
@[simp] theorem takePoint_report (p : Point) (z : Int) : (takePoint p z s).report = s.report := rfl
@[simp] theorem takePoint_out (p : Point) (z : Int) : (takePoint p z s).out = s.out := rfl
@[simp] theorem takePoint_nextRun (p : Point) (z : Int) : (takePoint p z s).nextRun = s.nextRun := rfl
@[simp] theorem takePoint_choices (p : Point) (z : Int) : (takePoint p z s).choices = s.choices := rfl
@[simp] theorem takePoint_pending (p : Point) (z : Int) : (takePoint p z s).pending = s.pending := rfl
@[simp] theorem takePoint_reads (p : Point) (z : Int) : (takePoint p z s).reads = s.reads := rfl

@[simp] theorem stageDeparture_mem (run : Nat) : (stageDeparture run s).mem = s.mem := rfl
@[simp] theorem stageDeparture_path (run : Nat) : (stageDeparture run s).path = s.path := rfl
@[simp] theorem stageDeparture_cmd (run : Nat) : (stageDeparture run s).cmd = s.cmd := rfl
@[simp] theorem stageDeparture_lots (run : Nat) : (stageDeparture run s).lots = s.lots := rfl
@[simp] theorem stageDeparture_wafers (run : Nat) : (stageDeparture run s).wafers = s.wafers := rfl
@[simp] theorem stageDeparture_handling (run : Nat) : (stageDeparture run s).handling = s.handling := rfl
@[simp] theorem stageDeparture_table (run : Nat) : (stageDeparture run s).table = s.table := rfl
@[simp] theorem stageDeparture_visit (run : Nat) : (stageDeparture run s).visit = s.visit := rfl
@[simp] theorem stageDeparture_guard (run : Nat) : (stageDeparture run s).guard = s.guard := rfl
@[simp] theorem stageDeparture_report (run : Nat) : (stageDeparture run s).report = s.report := rfl
@[simp] theorem stageDeparture_out (run : Nat) : (stageDeparture run s).out = s.out := rfl
@[simp] theorem stageDeparture_nextRun (run : Nat) : (stageDeparture run s).nextRun = s.nextRun := rfl
@[simp] theorem stageDeparture_choices (run : Nat) : (stageDeparture run s).choices = s.choices := rfl
@[simp] theorem stageDeparture_pending (run : Nat) : (stageDeparture run s).pending = s.pending := rfl
@[simp] theorem stageDeparture_reads (run : Nat) : (stageDeparture run s).reads = s.reads := rfl

@[simp] theorem clearSeed_mem (run : Nat) : (clearSeed run s).mem = s.mem := rfl
@[simp] theorem clearSeed_path (run : Nat) : (clearSeed run s).path = s.path := rfl
@[simp] theorem clearSeed_cmd (run : Nat) : (clearSeed run s).cmd = s.cmd := rfl
@[simp] theorem clearSeed_lots (run : Nat) : (clearSeed run s).lots = s.lots := rfl
@[simp] theorem clearSeed_wafers (run : Nat) : (clearSeed run s).wafers = s.wafers := rfl
@[simp] theorem clearSeed_handling (run : Nat) : (clearSeed run s).handling = s.handling := rfl
@[simp] theorem clearSeed_table (run : Nat) : (clearSeed run s).table = s.table := rfl
@[simp] theorem clearSeed_visit (run : Nat) : (clearSeed run s).visit = s.visit := rfl
@[simp] theorem clearSeed_guard (run : Nat) : (clearSeed run s).guard = s.guard := rfl
@[simp] theorem clearSeed_report (run : Nat) : (clearSeed run s).report = s.report := rfl
@[simp] theorem clearSeed_out (run : Nat) : (clearSeed run s).out = s.out := rfl
@[simp] theorem clearSeed_nextRun (run : Nat) : (clearSeed run s).nextRun = s.nextRun := rfl
@[simp] theorem clearSeed_choices (run : Nat) : (clearSeed run s).choices = s.choices := rfl
@[simp] theorem clearSeed_pending (run : Nat) : (clearSeed run s).pending = s.pending := rfl
@[simp] theorem clearSeed_reads (run : Nat) : (clearSeed run s).reads = s.reads := rfl

@[simp] theorem setGuard_mem (g : GuardState) : (setGuard g s).mem = s.mem := rfl
@[simp] theorem setGuard_path (g : GuardState) : (setGuard g s).path = s.path := rfl
@[simp] theorem setGuard_cmd (g : GuardState) : (setGuard g s).cmd = s.cmd := rfl
@[simp] theorem setGuard_lots (g : GuardState) : (setGuard g s).lots = s.lots := rfl
@[simp] theorem setGuard_wafers (g : GuardState) : (setGuard g s).wafers = s.wafers := rfl
@[simp] theorem setGuard_handling (g : GuardState) : (setGuard g s).handling = s.handling := rfl
@[simp] theorem setGuard_table (g : GuardState) : (setGuard g s).table = s.table := rfl
@[simp] theorem setGuard_visit (g : GuardState) : (setGuard g s).visit = s.visit := rfl
@[simp] theorem setGuard_focus (g : GuardState) : (setGuard g s).focus = s.focus := rfl
@[simp] theorem setGuard_report (g : GuardState) : (setGuard g s).report = s.report := rfl
@[simp] theorem setGuard_out (g : GuardState) : (setGuard g s).out = s.out := rfl
@[simp] theorem setGuard_nextRun (g : GuardState) : (setGuard g s).nextRun = s.nextRun := rfl
@[simp] theorem setGuard_choices (g : GuardState) : (setGuard g s).choices = s.choices := rfl
@[simp] theorem setGuard_pending (g : GuardState) : (setGuard g s).pending = s.pending := rfl
@[simp] theorem setGuard_reads (g : GuardState) : (setGuard g s).reads = s.reads := rfl

@[simp] theorem tripGuard_mem (g : GuardState) (z : Word) : (tripGuard g z s).mem = s.mem := rfl
@[simp] theorem tripGuard_path (g : GuardState) (z : Word) : (tripGuard g z s).path = s.path := rfl
@[simp] theorem tripGuard_cmd (g : GuardState) (z : Word) : (tripGuard g z s).cmd = s.cmd := rfl
@[simp] theorem tripGuard_lots (g : GuardState) (z : Word) : (tripGuard g z s).lots = s.lots := rfl
@[simp] theorem tripGuard_wafers (g : GuardState) (z : Word) : (tripGuard g z s).wafers = s.wafers := rfl
@[simp] theorem tripGuard_handling (g : GuardState) (z : Word) : (tripGuard g z s).handling = s.handling := rfl
@[simp] theorem tripGuard_table (g : GuardState) (z : Word) : (tripGuard g z s).table = s.table := rfl
@[simp] theorem tripGuard_visit (g : GuardState) (z : Word) : (tripGuard g z s).visit = s.visit := rfl
@[simp] theorem tripGuard_focus (g : GuardState) (z : Word) : (tripGuard g z s).focus = s.focus := rfl
@[simp] theorem tripGuard_report (g : GuardState) (z : Word) : (tripGuard g z s).report = s.report := rfl
@[simp] theorem tripGuard_out (g : GuardState) (z : Word) : (tripGuard g z s).out = s.out := rfl
@[simp] theorem tripGuard_nextRun (g : GuardState) (z : Word) : (tripGuard g z s).nextRun = s.nextRun := rfl
@[simp] theorem tripGuard_choices (g : GuardState) (z : Word) : (tripGuard g z s).choices = s.choices := rfl
@[simp] theorem tripGuard_pending (g : GuardState) (z : Word) : (tripGuard g z s).pending = s.pending := rfl
@[simp] theorem tripGuard_reads (g : GuardState) (z : Word) : (tripGuard g z s).reads = s.reads := rfl

@[simp] theorem answer_mem (c : CommandCode) : (answer c s).mem = s.mem := rfl
@[simp] theorem answer_path (c : CommandCode) : (answer c s).path = s.path := rfl
@[simp] theorem answer_lots (c : CommandCode) : (answer c s).lots = s.lots := rfl
@[simp] theorem answer_wafers (c : CommandCode) : (answer c s).wafers = s.wafers := rfl
@[simp] theorem answer_handling (c : CommandCode) : (answer c s).handling = s.handling := rfl
@[simp] theorem answer_table (c : CommandCode) : (answer c s).table = s.table := rfl
@[simp] theorem answer_visit (c : CommandCode) : (answer c s).visit = s.visit := rfl
@[simp] theorem answer_focus (c : CommandCode) : (answer c s).focus = s.focus := rfl
@[simp] theorem answer_guard (c : CommandCode) : (answer c s).guard = s.guard := rfl
@[simp] theorem answer_report (c : CommandCode) : (answer c s).report = s.report := rfl
@[simp] theorem answer_out (c : CommandCode) : (answer c s).out = s.out := rfl
@[simp] theorem answer_nextRun (c : CommandCode) : (answer c s).nextRun = s.nextRun := rfl
@[simp] theorem answer_choices (c : CommandCode) : (answer c s).choices = s.choices := rfl
@[simp] theorem answer_pending (c : CommandCode) : (answer c s).pending = s.pending := rfl
@[simp] theorem answer_reads (c : CommandCode) : (answer c s).reads = s.reads := rfl

@[simp] theorem countCommand_mem (v : Byte) : (countCommand v s).mem = s.mem := rfl
@[simp] theorem countCommand_path (v : Byte) : (countCommand v s).path = s.path := rfl
@[simp] theorem countCommand_lots (v : Byte) : (countCommand v s).lots = s.lots := rfl
@[simp] theorem countCommand_wafers (v : Byte) : (countCommand v s).wafers = s.wafers := rfl
@[simp] theorem countCommand_handling (v : Byte) : (countCommand v s).handling = s.handling := rfl
@[simp] theorem countCommand_table (v : Byte) : (countCommand v s).table = s.table := rfl
@[simp] theorem countCommand_visit (v : Byte) : (countCommand v s).visit = s.visit := rfl
@[simp] theorem countCommand_focus (v : Byte) : (countCommand v s).focus = s.focus := rfl
@[simp] theorem countCommand_guard (v : Byte) : (countCommand v s).guard = s.guard := rfl
@[simp] theorem countCommand_report (v : Byte) : (countCommand v s).report = s.report := rfl
@[simp] theorem countCommand_out (v : Byte) : (countCommand v s).out = s.out := rfl
@[simp] theorem countCommand_nextRun (v : Byte) : (countCommand v s).nextRun = s.nextRun := rfl
@[simp] theorem countCommand_choices (v : Byte) : (countCommand v s).choices = s.choices := rfl
@[simp] theorem countCommand_pending (v : Byte) : (countCommand v s).pending = s.pending := rfl
@[simp] theorem countCommand_reads (v : Byte) : (countCommand v s).reads = s.reads := rfl

@[simp] theorem openLotStart_mem : (openLotStart s).mem = s.mem := rfl
@[simp] theorem openLotStart_path : (openLotStart s).path = s.path := rfl
@[simp] theorem openLotStart_lots : (openLotStart s).lots = s.lots := rfl
@[simp] theorem openLotStart_wafers : (openLotStart s).wafers = s.wafers := rfl
@[simp] theorem openLotStart_handling : (openLotStart s).handling = s.handling := rfl
@[simp] theorem openLotStart_table : (openLotStart s).table = s.table := rfl
@[simp] theorem openLotStart_visit : (openLotStart s).visit = s.visit := rfl
@[simp] theorem openLotStart_focus : (openLotStart s).focus = s.focus := rfl
@[simp] theorem openLotStart_guard : (openLotStart s).guard = s.guard := rfl
@[simp] theorem openLotStart_report : (openLotStart s).report = s.report := rfl
@[simp] theorem openLotStart_out : (openLotStart s).out = s.out := rfl
@[simp] theorem openLotStart_nextRun : (openLotStart s).nextRun = s.nextRun := rfl
@[simp] theorem openLotStart_choices : (openLotStart s).choices = s.choices := rfl
@[simp] theorem openLotStart_pending : (openLotStart s).pending = s.pending := rfl
@[simp] theorem openLotStart_reads : (openLotStart s).reads = s.reads := rfl

@[simp] theorem closeLotStart_mem : (closeLotStart s).mem = s.mem := rfl
@[simp] theorem closeLotStart_path : (closeLotStart s).path = s.path := rfl
@[simp] theorem closeLotStart_lots : (closeLotStart s).lots = s.lots := rfl
@[simp] theorem closeLotStart_wafers : (closeLotStart s).wafers = s.wafers := rfl
@[simp] theorem closeLotStart_handling : (closeLotStart s).handling = s.handling := rfl
@[simp] theorem closeLotStart_table : (closeLotStart s).table = s.table := rfl
@[simp] theorem closeLotStart_visit : (closeLotStart s).visit = s.visit := rfl
@[simp] theorem closeLotStart_focus : (closeLotStart s).focus = s.focus := rfl
@[simp] theorem closeLotStart_guard : (closeLotStart s).guard = s.guard := rfl
@[simp] theorem closeLotStart_report : (closeLotStart s).report = s.report := rfl
@[simp] theorem closeLotStart_out : (closeLotStart s).out = s.out := rfl
@[simp] theorem closeLotStart_nextRun : (closeLotStart s).nextRun = s.nextRun := rfl
@[simp] theorem closeLotStart_choices : (closeLotStart s).choices = s.choices := rfl
@[simp] theorem closeLotStart_pending : (closeLotStart s).pending = s.pending := rfl
@[simp] theorem closeLotStart_reads : (closeLotStart s).reads = s.reads := rfl

@[simp] theorem writeArgument_mem (k : Nat) (d : Word) (l : BitVec 4) : (writeArgument k d l s).mem = s.mem := rfl
@[simp] theorem writeArgument_path (k : Nat) (d : Word) (l : BitVec 4) : (writeArgument k d l s).path = s.path := rfl
@[simp] theorem writeArgument_lots (k : Nat) (d : Word) (l : BitVec 4) : (writeArgument k d l s).lots = s.lots := rfl
@[simp] theorem writeArgument_wafers (k : Nat) (d : Word) (l : BitVec 4) : (writeArgument k d l s).wafers = s.wafers := rfl
@[simp] theorem writeArgument_handling (k : Nat) (d : Word) (l : BitVec 4) : (writeArgument k d l s).handling = s.handling := rfl
@[simp] theorem writeArgument_table (k : Nat) (d : Word) (l : BitVec 4) : (writeArgument k d l s).table = s.table := rfl
@[simp] theorem writeArgument_visit (k : Nat) (d : Word) (l : BitVec 4) : (writeArgument k d l s).visit = s.visit := rfl
@[simp] theorem writeArgument_focus (k : Nat) (d : Word) (l : BitVec 4) : (writeArgument k d l s).focus = s.focus := rfl
@[simp] theorem writeArgument_guard (k : Nat) (d : Word) (l : BitVec 4) : (writeArgument k d l s).guard = s.guard := rfl
@[simp] theorem writeArgument_report (k : Nat) (d : Word) (l : BitVec 4) : (writeArgument k d l s).report = s.report := rfl
@[simp] theorem writeArgument_out (k : Nat) (d : Word) (l : BitVec 4) : (writeArgument k d l s).out = s.out := rfl
@[simp] theorem writeArgument_nextRun (k : Nat) (d : Word) (l : BitVec 4) : (writeArgument k d l s).nextRun = s.nextRun := rfl
@[simp] theorem writeArgument_choices (k : Nat) (d : Word) (l : BitVec 4) : (writeArgument k d l s).choices = s.choices := rfl
@[simp] theorem writeArgument_pending (k : Nat) (d : Word) (l : BitVec 4) : (writeArgument k d l s).pending = s.pending := rfl
@[simp] theorem writeArgument_reads (k : Nat) (d : Word) (l : BitVec 4) : (writeArgument k d l s).reads = s.reads := rfl

@[simp] theorem writeMask_mem (d : Word) (l : BitVec 4) : (writeMask d l s).mem = s.mem := rfl
@[simp] theorem writeMask_path (d : Word) (l : BitVec 4) : (writeMask d l s).path = s.path := rfl
@[simp] theorem writeMask_lots (d : Word) (l : BitVec 4) : (writeMask d l s).lots = s.lots := rfl
@[simp] theorem writeMask_wafers (d : Word) (l : BitVec 4) : (writeMask d l s).wafers = s.wafers := rfl
@[simp] theorem writeMask_handling (d : Word) (l : BitVec 4) : (writeMask d l s).handling = s.handling := rfl
@[simp] theorem writeMask_table (d : Word) (l : BitVec 4) : (writeMask d l s).table = s.table := rfl
@[simp] theorem writeMask_visit (d : Word) (l : BitVec 4) : (writeMask d l s).visit = s.visit := rfl
@[simp] theorem writeMask_focus (d : Word) (l : BitVec 4) : (writeMask d l s).focus = s.focus := rfl
@[simp] theorem writeMask_guard (d : Word) (l : BitVec 4) : (writeMask d l s).guard = s.guard := rfl
@[simp] theorem writeMask_report (d : Word) (l : BitVec 4) : (writeMask d l s).report = s.report := rfl
@[simp] theorem writeMask_out (d : Word) (l : BitVec 4) : (writeMask d l s).out = s.out := rfl
@[simp] theorem writeMask_nextRun (d : Word) (l : BitVec 4) : (writeMask d l s).nextRun = s.nextRun := rfl
@[simp] theorem writeMask_choices (d : Word) (l : BitVec 4) : (writeMask d l s).choices = s.choices := rfl
@[simp] theorem writeMask_pending (d : Word) (l : BitVec 4) : (writeMask d l s).pending = s.pending := rfl
@[simp] theorem writeMask_reads (d : Word) (l : BitVec 4) : (writeMask d l s).reads = s.reads := rfl

@[simp] theorem writeWindowSelect_mem (d : Word) (l : BitVec 4) : (writeWindowSelect d l s).mem = s.mem := rfl
@[simp] theorem writeWindowSelect_path (d : Word) (l : BitVec 4) : (writeWindowSelect d l s).path = s.path := rfl
@[simp] theorem writeWindowSelect_lots (d : Word) (l : BitVec 4) : (writeWindowSelect d l s).lots = s.lots := rfl
@[simp] theorem writeWindowSelect_wafers (d : Word) (l : BitVec 4) : (writeWindowSelect d l s).wafers = s.wafers := rfl
@[simp] theorem writeWindowSelect_handling (d : Word) (l : BitVec 4) : (writeWindowSelect d l s).handling = s.handling := rfl
@[simp] theorem writeWindowSelect_table (d : Word) (l : BitVec 4) : (writeWindowSelect d l s).table = s.table := rfl
@[simp] theorem writeWindowSelect_visit (d : Word) (l : BitVec 4) : (writeWindowSelect d l s).visit = s.visit := rfl
@[simp] theorem writeWindowSelect_focus (d : Word) (l : BitVec 4) : (writeWindowSelect d l s).focus = s.focus := rfl
@[simp] theorem writeWindowSelect_guard (d : Word) (l : BitVec 4) : (writeWindowSelect d l s).guard = s.guard := rfl
@[simp] theorem writeWindowSelect_report (d : Word) (l : BitVec 4) : (writeWindowSelect d l s).report = s.report := rfl
@[simp] theorem writeWindowSelect_out (d : Word) (l : BitVec 4) : (writeWindowSelect d l s).out = s.out := rfl
@[simp] theorem writeWindowSelect_nextRun (d : Word) (l : BitVec 4) : (writeWindowSelect d l s).nextRun = s.nextRun := rfl
@[simp] theorem writeWindowSelect_choices (d : Word) (l : BitVec 4) : (writeWindowSelect d l s).choices = s.choices := rfl
@[simp] theorem writeWindowSelect_pending (d : Word) (l : BitVec 4) : (writeWindowSelect d l s).pending = s.pending := rfl
@[simp] theorem writeWindowSelect_reads (d : Word) (l : BitVec 4) : (writeWindowSelect d l s).reads = s.reads := rfl

@[simp] theorem forward_path (a : Nat) (d : Word) (l : BitVec 4) : (forward a d l s).path = s.path := rfl
@[simp] theorem forward_cmd (a : Nat) (d : Word) (l : BitVec 4) : (forward a d l s).cmd = s.cmd := rfl
@[simp] theorem forward_lots (a : Nat) (d : Word) (l : BitVec 4) : (forward a d l s).lots = s.lots := rfl
@[simp] theorem forward_wafers (a : Nat) (d : Word) (l : BitVec 4) : (forward a d l s).wafers = s.wafers := rfl
@[simp] theorem forward_handling (a : Nat) (d : Word) (l : BitVec 4) : (forward a d l s).handling = s.handling := rfl
@[simp] theorem forward_table (a : Nat) (d : Word) (l : BitVec 4) : (forward a d l s).table = s.table := rfl
@[simp] theorem forward_visit (a : Nat) (d : Word) (l : BitVec 4) : (forward a d l s).visit = s.visit := rfl
@[simp] theorem forward_focus (a : Nat) (d : Word) (l : BitVec 4) : (forward a d l s).focus = s.focus := rfl
@[simp] theorem forward_guard (a : Nat) (d : Word) (l : BitVec 4) : (forward a d l s).guard = s.guard := rfl
@[simp] theorem forward_report (a : Nat) (d : Word) (l : BitVec 4) : (forward a d l s).report = s.report := rfl
@[simp] theorem forward_out (a : Nat) (d : Word) (l : BitVec 4) : (forward a d l s).out = s.out := rfl
@[simp] theorem forward_nextRun (a : Nat) (d : Word) (l : BitVec 4) : (forward a d l s).nextRun = s.nextRun := rfl
@[simp] theorem forward_choices (a : Nat) (d : Word) (l : BitVec 4) : (forward a d l s).choices = s.choices := rfl
@[simp] theorem forward_pending (a : Nat) (d : Word) (l : BitVec 4) : (forward a d l s).pending = s.pending := rfl
@[simp] theorem forward_reads (a : Nat) (d : Word) (l : BitVec 4) : (forward a d l s).reads = s.reads := rfl

@[simp] theorem takeBus_mem (u : UpWord) : (takeBus u s).mem = s.mem := rfl
@[simp] theorem takeBus_cmd (u : UpWord) : (takeBus u s).cmd = s.cmd := rfl
@[simp] theorem takeBus_lots (u : UpWord) : (takeBus u s).lots = s.lots := rfl
@[simp] theorem takeBus_wafers (u : UpWord) : (takeBus u s).wafers = s.wafers := rfl
@[simp] theorem takeBus_handling (u : UpWord) : (takeBus u s).handling = s.handling := rfl
@[simp] theorem takeBus_table (u : UpWord) : (takeBus u s).table = s.table := rfl
@[simp] theorem takeBus_visit (u : UpWord) : (takeBus u s).visit = s.visit := rfl
@[simp] theorem takeBus_focus (u : UpWord) : (takeBus u s).focus = s.focus := rfl
@[simp] theorem takeBus_guard (u : UpWord) : (takeBus u s).guard = s.guard := rfl
@[simp] theorem takeBus_report (u : UpWord) : (takeBus u s).report = s.report := rfl
@[simp] theorem takeBus_out (u : UpWord) : (takeBus u s).out = s.out := rfl
@[simp] theorem takeBus_nextRun (u : UpWord) : (takeBus u s).nextRun = s.nextRun := rfl
@[simp] theorem takeBus_choices (u : UpWord) : (takeBus u s).choices = s.choices := rfl
@[simp] theorem takeBus_pending (u : UpWord) : (takeBus u s).pending = s.pending := rfl
@[simp] theorem takeBus_reads (u : UpWord) : (takeBus u s).reads = s.reads := rfl

@[simp] theorem readCauseCell_mem : (readCauseCell s).mem = s.mem := rfl
@[simp] theorem readCauseCell_lots : (readCauseCell s).lots = s.lots := rfl
@[simp] theorem readCauseCell_wafers : (readCauseCell s).wafers = s.wafers := rfl
@[simp] theorem readCauseCell_handling : (readCauseCell s).handling = s.handling := rfl
@[simp] theorem readCauseCell_table : (readCauseCell s).table = s.table := rfl
@[simp] theorem readCauseCell_visit : (readCauseCell s).visit = s.visit := rfl
@[simp] theorem readCauseCell_focus : (readCauseCell s).focus = s.focus := rfl
@[simp] theorem readCauseCell_guard : (readCauseCell s).guard = s.guard := rfl
@[simp] theorem readCauseCell_report : (readCauseCell s).report = s.report := rfl
@[simp] theorem readCauseCell_out : (readCauseCell s).out = s.out := rfl
@[simp] theorem readCauseCell_nextRun : (readCauseCell s).nextRun = s.nextRun := rfl
@[simp] theorem readCauseCell_choices : (readCauseCell s).choices = s.choices := rfl
@[simp] theorem readCauseCell_pending : (readCauseCell s).pending = s.pending := rfl
@[simp] theorem readCauseCell_reads : (readCauseCell s).reads = s.reads := rfl

@[simp] theorem answerRead_mem (a : Nat) : (answerRead a s).mem = s.mem := rfl
@[simp] theorem answerRead_cmd (a : Nat) : (answerRead a s).cmd = s.cmd := rfl
@[simp] theorem answerRead_lots (a : Nat) : (answerRead a s).lots = s.lots := rfl
@[simp] theorem answerRead_wafers (a : Nat) : (answerRead a s).wafers = s.wafers := rfl
@[simp] theorem answerRead_handling (a : Nat) : (answerRead a s).handling = s.handling := rfl
@[simp] theorem answerRead_table (a : Nat) : (answerRead a s).table = s.table := rfl
@[simp] theorem answerRead_visit (a : Nat) : (answerRead a s).visit = s.visit := rfl
@[simp] theorem answerRead_focus (a : Nat) : (answerRead a s).focus = s.focus := rfl
@[simp] theorem answerRead_guard (a : Nat) : (answerRead a s).guard = s.guard := rfl
@[simp] theorem answerRead_report (a : Nat) : (answerRead a s).report = s.report := rfl
@[simp] theorem answerRead_out (a : Nat) : (answerRead a s).out = s.out := rfl
@[simp] theorem answerRead_nextRun (a : Nat) : (answerRead a s).nextRun = s.nextRun := rfl
@[simp] theorem answerRead_choices (a : Nat) : (answerRead a s).choices = s.choices := rfl
@[simp] theorem answerRead_pending (a : Nat) : (answerRead a s).pending = s.pending := rfl
@[simp] theorem answerRead_reads (a : Nat) : (answerRead a s).reads = s.reads := rfl

@[simp] theorem setMap_mem (m : PathMode) (zs : List Zone) : (setMap m zs s).mem = s.mem := rfl
@[simp] theorem setMap_cmd (m : PathMode) (zs : List Zone) : (setMap m zs s).cmd = s.cmd := rfl
@[simp] theorem setMap_lots (m : PathMode) (zs : List Zone) : (setMap m zs s).lots = s.lots := rfl
@[simp] theorem setMap_wafers (m : PathMode) (zs : List Zone) : (setMap m zs s).wafers = s.wafers := rfl
@[simp] theorem setMap_handling (m : PathMode) (zs : List Zone) : (setMap m zs s).handling = s.handling := rfl
@[simp] theorem setMap_table (m : PathMode) (zs : List Zone) : (setMap m zs s).table = s.table := rfl
@[simp] theorem setMap_visit (m : PathMode) (zs : List Zone) : (setMap m zs s).visit = s.visit := rfl
@[simp] theorem setMap_focus (m : PathMode) (zs : List Zone) : (setMap m zs s).focus = s.focus := rfl
@[simp] theorem setMap_guard (m : PathMode) (zs : List Zone) : (setMap m zs s).guard = s.guard := rfl
@[simp] theorem setMap_report (m : PathMode) (zs : List Zone) : (setMap m zs s).report = s.report := rfl
@[simp] theorem setMap_out (m : PathMode) (zs : List Zone) : (setMap m zs s).out = s.out := rfl
@[simp] theorem setMap_nextRun (m : PathMode) (zs : List Zone) : (setMap m zs s).nextRun = s.nextRun := rfl
@[simp] theorem setMap_choices (m : PathMode) (zs : List Zone) : (setMap m zs s).choices = s.choices := rfl
@[simp] theorem setMap_pending (m : PathMode) (zs : List Zone) : (setMap m zs s).pending = s.pending := rfl
@[simp] theorem setMap_reads (m : PathMode) (zs : List Zone) : (setMap m zs s).reads = s.reads := rfl

@[simp] theorem beginLoading_mem : (beginLoading s).mem = s.mem := rfl
@[simp] theorem beginLoading_cmd : (beginLoading s).cmd = s.cmd := rfl
@[simp] theorem beginLoading_lots : (beginLoading s).lots = s.lots := rfl
@[simp] theorem beginLoading_wafers : (beginLoading s).wafers = s.wafers := rfl
@[simp] theorem beginLoading_handling : (beginLoading s).handling = s.handling := rfl
@[simp] theorem beginLoading_table : (beginLoading s).table = s.table := rfl
@[simp] theorem beginLoading_visit : (beginLoading s).visit = s.visit := rfl
@[simp] theorem beginLoading_focus : (beginLoading s).focus = s.focus := rfl
@[simp] theorem beginLoading_guard : (beginLoading s).guard = s.guard := rfl
@[simp] theorem beginLoading_report : (beginLoading s).report = s.report := rfl
@[simp] theorem beginLoading_out : (beginLoading s).out = s.out := rfl
@[simp] theorem beginLoading_nextRun : (beginLoading s).nextRun = s.nextRun := rfl
@[simp] theorem beginLoading_choices : (beginLoading s).choices = s.choices := rfl
@[simp] theorem beginLoading_pending : (beginLoading s).pending = s.pending := rfl
@[simp] theorem beginLoading_reads : (beginLoading s).reads = s.reads := rfl

@[simp] theorem tick_mem : (tick s).mem = s.mem := rfl
@[simp] theorem tick_path : (tick s).path = s.path := rfl
@[simp] theorem tick_lots : (tick s).lots = s.lots := rfl
@[simp] theorem tick_wafers : (tick s).wafers = s.wafers := rfl
@[simp] theorem tick_table : (tick s).table = s.table := rfl
@[simp] theorem tick_focus : (tick s).focus = s.focus := rfl
@[simp] theorem tick_guard : (tick s).guard = s.guard := rfl
@[simp] theorem tick_report : (tick s).report = s.report := rfl
@[simp] theorem tick_out : (tick s).out = s.out := rfl
@[simp] theorem tick_nextRun : (tick s).nextRun = s.nextRun := rfl
@[simp] theorem tick_choices : (tick s).choices = s.choices := rfl
@[simp] theorem tick_pending : (tick s).pending = s.pending := rfl
@[simp] theorem tick_reads : (tick s).reads = s.reads := rfl

/-! ## What the updates write -/

@[simp] theorem pushJob_jobs (j : Job) : (pushJob j s).path.jobs = s.path.jobs ++ [j] := rfl
@[simp] theorem send_out (m : LinkMessage) : (send m s).out = m :: s.out := rfl
@[simp] theorem wantPlan_runDue : (wantPlan s).handling.runDue = true := rfl
@[simp] theorem setHandling_state (h : HandlingState) : (setHandling h s).handling.state = h := rfl
@[simp] theorem setGuard_state (g : GuardState) : (setGuard g s).guard.state = g := rfl
@[simp] theorem answer_code (c : CommandCode) : (answer c s).cmd.code = c := rfl
@[simp] theorem countCommand_count (v : Byte) : (countCommand v s).cmd.count = s.cmd.count + 1 := rfl
@[simp] theorem countCommand_echoed (v : Byte) : (countCommand v s).cmd.echoed = v := rfl
@[simp] theorem takePosition_position (p : Point) : (takePosition p s).visit.position = some p := rfl
@[simp] theorem holdStage_stage : (holdStage s).visit.hold.stage = true := rfl
@[simp] theorem forward_mem (a : Nat) (d : Word) (l : BitVec 4) :
    (forward a d l s).mem = writeWord s.mem a d l := rfl
@[simp] theorem tick_ms : (tick s).cmd.ms = s.cmd.ms + 1 := rfl
@[simp] theorem withPending_pending (l : List Instr) : (s.withPending l).pending = l := rfl
@[simp] theorem withPending_reads (l : List Instr) : (s.withPending l).reads = s.reads := rfl

end Sys2Proof.Machine
end

