-- ==== Sys2Proof/Laws/Keeps.lean ====
section
/-! SUPPORT. What the units leave alone. `Keeps s t` says once what any operation of the lot, handling,
alignment, revisit, visit, focus and report units can do to the path, to memory, to the command unit's copies,
to the guard and to the sizes of the tables; one lemma for each operation. -/

namespace Sys2Proof.Machine

/-- Places, wafers and defect ids of the entries, in order. -/
def keysOf (s : State) : List (Nat × Nat × Word) := s.table.map Entry.key

/-- The frame of the units: `t` comes from `s` by operations of the units. -/
structure Keeps (s t : State) : Prop where
  mem : t.mem = s.mem
  pending : t.pending = s.pending
  reads : t.reads = s.reads
  mode : t.path.mode = s.path.mode
  zones : t.path.zones = s.path.zones
  held : t.path.held = s.path.held
  upWait : t.path.upWait = s.path.upWait
  drops : t.path.drops = s.path.drops
  reported : t.path.reported = s.path.reported
  lastDrop : t.path.lastDrop = s.path.lastDrop
  answered : t.path.answered = s.path.answered
  args : t.cmd.args = s.cmd.args
  mask : t.cmd.mask = s.cmd.mask
  windowSel : t.cmd.windowSel = s.cmd.windowSel
  ms : t.cmd.ms = s.cmd.ms
  paramRaw : t.cmd.paramRaw = s.cmd.paramRaw
  paramsValid : t.cmd.paramsValid = s.cmd.paramsValid
  resetting : t.cmd.resetting = s.cmd.resetting
  resetCause : t.cmd.resetCause = s.cmd.resetCause
  warm : t.cmd.warm = s.cmd.warm
  count : t.cmd.count = s.cmd.count
  echoed : t.cmd.echoed = s.cmd.echoed
  evConsumer : t.cmd.evConsumer = s.cmd.evConsumer
  jobs : ∃ js, t.path.jobs = s.path.jobs ++ js
  bounded : depth s ≤ 16 → depth t ≤ 16
  guard : t.guard = s.guard
  held_output : guardHolds s = true → t.focus.output = s.focus.output
  wafers : t.wafers.length = s.wafers.length
  table : (keysOf t).Sublist (keysOf s)

theorem Keeps.refl (s : State) : Keeps s s := by
  constructor <;> first | rfl | exact ⟨[], by simp⟩ | exact id | (intro _; rfl)

theorem Keeps.trans {s t u : State} (h : Keeps s t) (k : Keeps t u) : Keeps s u where
  mem := k.mem.trans h.mem
  pending := k.pending.trans h.pending
  reads := k.reads.trans h.reads
  mode := k.mode.trans h.mode
  zones := k.zones.trans h.zones
  held := k.held.trans h.held
  upWait := k.upWait.trans h.upWait
  drops := k.drops.trans h.drops
  reported := k.reported.trans h.reported
  lastDrop := k.lastDrop.trans h.lastDrop
  answered := k.answered.trans h.answered
  args := k.args.trans h.args
  mask := k.mask.trans h.mask
  windowSel := k.windowSel.trans h.windowSel
  ms := k.ms.trans h.ms
  paramRaw := k.paramRaw.trans h.paramRaw
  paramsValid := k.paramsValid.trans h.paramsValid
  resetting := k.resetting.trans h.resetting
  resetCause := k.resetCause.trans h.resetCause
  warm := k.warm.trans h.warm
  count := k.count.trans h.count
  echoed := k.echoed.trans h.echoed
  evConsumer := k.evConsumer.trans h.evConsumer
  jobs := by
    obtain ⟨js, hj⟩ := h.jobs
    obtain ⟨ks, hk⟩ := k.jobs
    exact ⟨js ++ ks, by rw [hk, hj, List.append_assoc]⟩
  bounded := fun b => k.bounded (h.bounded b)
  guard := k.guard.trans h.guard
  held_output := fun g => by
    have g' : guardHolds t = true := by rw [guardHolds, h.guard]; exact g
    rw [k.held_output g', h.held_output g]
  wafers := k.wafers.trans h.wafers
  table := k.table.trans h.table

/-- An operation on the fields that `Keeps` does not speak of. -/
structure Same (s t : State) : Prop where
  mem : t.mem = s.mem
  pending : t.pending = s.pending
  reads : t.reads = s.reads
  path : t.path = s.path
  cmd : t.cmd = s.cmd
  guard : t.guard = s.guard
  output : t.focus.output = s.focus.output
  wafers : t.wafers.length = s.wafers.length
  table : (keysOf t).Sublist (keysOf s)

theorem Same.keeps {s t : State} (h : Same s t) : Keeps s t := by
  constructor <;> first
    | exact h.mem
    | exact h.pending
    | exact h.reads
    | exact h.guard
    | exact h.wafers
    | exact h.table
    | (intro _; exact h.output)
    | exact ⟨[], by rw [h.path, List.append_nil]⟩
    | (rw [h.cmd])
    | (rw [h.path])
    | (intro b; unfold depth at *; rw [h.path]; exact b)

/-- One more update of fields that `Keeps` does not speak of. -/
theorem Keeps.same {s t u : State} (h : Keeps s t) (k : Same t u) : Keeps s u := h.trans k.keeps

/-- An update of fields that `Keeps` does not speak of, and then more. -/
theorem Keeps.after {s t u : State} (k : Keeps t u) (h : Same s t) : Keeps s u := h.keeps.trans k

variable (s : State)

/-! ## Updates -/

theorem updWafer_same (i : Nat) (f : Wafer → Wafer) : Same s (updWafer i f s) :=
  ⟨rfl, rfl, rfl, rfl, rfl, rfl, rfl, by simp [updWafer], .refl _⟩

theorem updWafer_keeps (i : Nat) (f : Wafer → Wafer) : Keeps s (updWafer i f s) := (updWafer_same s i f).keeps

theorem updLot_keeps (run : Nat) (f : Lot → Lot) : Keeps s (updLot run f s) :=
  (Same.keeps ⟨rfl, rfl, rfl, rfl, rfl, rfl, rfl, rfl, .refl _⟩)

/-- An update of an entry that leaves its place, wafer and defect id. -/
theorem updEntry_keys (i : Nat) (f : Entry → Entry) (hf : ∀ e, (f e).key = e.key) :
    keysOf (updEntry i f s) = keysOf s := by
  simp only [keysOf, updEntry, List.map_map]
  apply List.map_congr_left
  intro e _
  simp only [Function.comp]
  split
  · exact hf e
  · rfl

theorem updEntry_keeps (i : Nat) (f : Entry → Entry) (hf : ∀ e, (f e).key = e.key) :
    Keeps s (updEntry i f s) :=
  Same.keeps (t := updEntry i f s) ⟨rfl, rfl, rfl, rfl, rfl, rfl, rfl, rfl, by rw [updEntry_keys s i f hf]⟩

theorem send_keeps (m : LinkMessage) : Keeps s (send m s) :=
  (Same.keeps ⟨rfl, rfl, rfl, rfl, rfl, rfl, rfl, rfl, .refl _⟩)

theorem wantPlan_keeps : Keeps s (wantPlan s) :=
  (Same.keeps ⟨rfl, rfl, rfl, rfl, rfl, rfl, rfl, rfl, .refl _⟩)

/-! ## Queue and events -/

theorem beginWait_keeps (p : Producer) : Keeps s (beginWait p s) := by
  constructor <;> first | rfl | exact ⟨[], by simp [beginWait]⟩ | exact id | (intro _; rfl)

theorem endWait_keeps (p : Producer) : Keeps s (endWait p s) := by
  constructor <;> first | rfl | exact ⟨[], by simp [endWait]⟩ | exact id | (intro _; rfl)

theorem noteReport_keeps : Keeps s (noteReport s) := by
  constructor <;> first | rfl | exact ⟨[], by simp⟩ | exact id | (intro _; rfl)

/-- A job that finds a place keeps the queue within its bound. -/
theorem pushJob_keeps (j : Job) (h : depth s < 16) : Keeps s (pushJob j s) := by
  constructor <;> first
    | rfl
    | exact ⟨[j], rfl⟩
    | (intro _; simp only [depth, pushJob_jobs, List.length_append, List.length_singleton] at *; omega)
    | (intro _; rfl)

theorem setCause_keeps (c : Category) : Keeps s (setCause c s) := by
  constructor <;> first | rfl | exact ⟨[], by simp [setCause]⟩ | exact id | (intro _; rfl)

theorem writeEvent_keeps (z : Zone) (k : EventKind) (w : Option Nat) (a b : Word) :
    Keeps s (writeEvent z k w a b s) := by
  unfold writeEvent; split
  · constructor <;> first | rfl | exact ⟨[], by simp⟩ | exact id | (intro _; rfl)
  · rename_i hb
    have hd : depth s < 16 := by
      simp only [eventBlocked, Config.jobPlaces, Bool.or_eq_true, decide_eq_true_eq, not_or] at hb
      exact Nat.lt_of_not_le fun h => hb.2 (decide_eq_true h)
    refine Keeps.trans ?_ (pushJob_keeps _ _ hd)
    constructor <;> first | rfl | exact ⟨[], by simp⟩ | exact id | (intro _; rfl)

theorem postEvent_keeps (k : EventKind) (w : Option Nat) (a b : Word) : Keeps s (postEvent k w a b s) := by
  unfold postEvent
  dsimp only
  split
  · exact setCause_keeps s _
  · exact (setCause_keeps s _).trans (writeEvent_keeps _ _ _ _ _ _)

/-! ## Reports -/

theorem handOver_keeps (e : Entry) : Keeps s (handOver e s) := updWafer_keeps s _ _

theorem handOverAt_keeps (i : Nat) : Keeps s (handOverAt i s) := by
  unfold handOverAt; split
  · exact .refl s
  · exact handOver_keeps s _

theorem ringTest_keeps : Keeps s (ringTest s) := by
  unfold ringTest; split
  · exact noteReport_keeps s
  · exact endWait_keeps s _

theorem joinReport_keeps (r : Report) : Keeps s (joinReport r s) :=
  Keeps.trans (t := { s with report := { s.report with queue := s.report.queue ++ [r] } })
    (Same.keeps ⟨rfl, rfl, rfl, rfl, rfl, rfl, rfl, rfl, .refl _⟩) (ringTest_keeps _)

/-! ## Focus -/

/-- The output may move, once the guard does not hold it. -/
theorem driveOutput_keeps (v : Int) (h : guardHolds s = false) : Keeps s (driveOutput v s) := by
  unfold driveOutput; split
  · exact .refl s
  · constructor <;> first
      | rfl
      | exact ⟨[], by simp⟩
      | exact id
      | (intro g; rw [h] at g; cases g)

theorem renewBounds_keeps : Keeps s (renewBounds s) :=
  (Same.keeps ⟨rfl, rfl, rfl, rfl, rfl, rfl, rfl, rfl, .refl _⟩)

theorem setOutput_keeps (v : Int) : Keeps s (setOutput v s) := by
  unfold setOutput; split
  · exact .refl s
  · rename_i h
    exact (renewBounds_keeps s).trans (driveOutput_keeps _ _ (Bool.eq_false_iff.mpr h))

theorem reclampOutput_keeps : Keeps s (reclampOutput s) := by
  unfold reclampOutput; split
  · exact .refl s
  · rename_i h
    exact (renewBounds_keeps s).trans (driveOutput_keeps _ _ (Bool.eq_false_iff.mpr h))

theorem refreshOutput_keeps : Keeps s (refreshOutput s) := setOutput_keeps s _

theorem startTrace_keeps (e : Entry) : Keeps s (startTrace e s) := by
  unfold startTrace; split
  · split
    · exact (Same.keeps ⟨rfl, rfl, rfl, rfl, rfl, rfl, rfl, rfl, .refl _⟩)
    · exact .refl s
  · exact .refl s

theorem endTrace_keeps : Keeps s (endTrace s) := by
  unfold endTrace; split
  · exact .refl s
  · split
    · exact (Same.keeps ⟨rfl, rfl, rfl, rfl, rfl, rfl, rfl, rfl, .refl _⟩)
    · exact Keeps.after (joinReport_keeps _ _) ⟨rfl, rfl, rfl, rfl, rfl, rfl, rfl, rfl, .refl _⟩

theorem recordSample_keeps (z : Word) (q : Byte) : Keeps s (recordSample z q s) := by
  unfold recordSample; split
  · exact .refl s
  · dsimp only; split
    · exact Keeps.after (endTrace_keeps _) ⟨rfl, rfl, rfl, rfl, rfl, rfl, rfl, rfl, .refl _⟩
    · exact (Same.keeps ⟨rfl, rfl, rfl, rfl, rfl, rfl, rfl, rfl, .refl _⟩)

/-- A change of the focus unit that leaves its output. -/
theorem focus_keeps (f : Focus) (h : f.output = s.focus.output) : Keeps s { s with focus := f } :=
  Same.keeps (t := { s with focus := f }) ⟨rfl, rfl, rfl, rfl, rfl, rfl, h, rfl, .refl _⟩

theorem focusBegin_keeps (e : Entry) (z o : Int) : Keeps s (focusBegin e z o s) := by
  have h : Keeps s (if guardHolds s then s else renewBounds s) := by
    split
    · exact .refl s
    · exact renewBounds_keeps s
  unfold focusBegin
  generalize (if guardHolds s = true then s else renewBounds s) = s1 at h ⊢
  refine Keeps.trans (Keeps.trans (h.trans ?_) (setOutput_keeps _ _)) (startTrace_keeps _ _)
  refine focus_keeps s1 _ ?_
  rfl

theorem focusIdle_keeps : Keeps s (focusIdle s) :=
  (Same.keeps ⟨rfl, rfl, rfl, rfl, rfl, rfl, rfl, rfl, .refl _⟩)

theorem focusEnd_keeps : Keeps s (focusEnd s) := (focusIdle_keeps s).trans (endTrace_keeps _)

theorem lostEvent_keeps (b : FocusState) (v : Visit) : Keeps s (lostEvent b v s) := by
  unfold lostEvent; split
  · exact postEvent_keeps s _ _ _ _
  · exact .refl s

theorem lockOutput_keeps (b : FocusState) : Keeps s (lockOutput b s) := by
  unfold lockOutput; split
  · exact refreshOutput_keeps s
  · exact .refl s

/-- The lock counts of an accepted sample leave the output. -/
theorem lockAccepted_output (L P : Nat) (f : Focus) : (lockAccepted L P f).output = f.output := by
  unfold lockAccepted; split <;> (try split) <;> rfl

/-- The lock counts of an unaccepted sample leave the output. -/
theorem lockUnaccepted_output (H : Nat) (f : Focus) : (lockUnaccepted H f).output = f.output := by
  unfold lockUnaccepted; split <;> (try split) <;> rfl

theorem lockSample_keeps (v : Visit) (z : Word) (q : Byte) : Keeps s (lockSample v z q s) := by
  unfold lockSample
  dsimp only
  refine Keeps.trans (Keeps.trans ?_ (lockOutput_keeps _ _)) (lostEvent_keeps _ _ _)
  refine focus_keeps s _ ?_
  split
  · exact lockAccepted_output _ _ _
  · exact lockUnaccepted_output _ _

theorem payDebt_keeps : Keeps s (payDebt s) := by
  unfold payDebt; split
  · exact (Same.keeps ⟨rfl, rfl, rfl, rfl, rfl, rfl, rfl, rfl, .refl _⟩)
  · exact .refl s

theorem recordStrobe_keeps : Keeps s (recordStrobe s) :=
  (Same.keeps ⟨rfl, rfl, rfl, rfl, rfl, rfl, rfl, rfl, .refl _⟩)

theorem takePoint_keeps (p : Point) (z : Int) : Keeps s (takePoint p z s) :=
  (Same.keeps ⟨rfl, rfl, rfl, rfl, rfl, rfl, rfl, rfl, .refl _⟩)

theorem stageDeparture_keeps (run : Nat) : Keeps s (stageDeparture run s) :=
  (Same.keeps ⟨rfl, rfl, rfl, rfl, rfl, rfl, rfl, rfl, .refl _⟩)

theorem clearSeed_keeps (run : Nat) : Keeps s (clearSeed run s) :=
  (Same.keeps ⟨rfl, rfl, rfl, rfl, rfl, rfl, rfl, rfl, .refl _⟩)

/-! ## Lots -/

theorem setLotState_keeps (run : Nat) (st : LotState) : Keeps s (setLotState run st s) :=
  (updLot_keeps s _ _).trans (wantPlan_keeps _)

theorem beginReload_keeps : Keeps s (beginReload s) := by
  unfold beginReload
  refine Keeps.trans ?_ (endWait_keeps _ _)
  constructor <;> first | rfl | exact ⟨[], by simp⟩ | exact id | (intro _; rfl)

theorem reloadIfDue_keeps : Keeps s (reloadIfDue s) := by
  unfold reloadIfDue; split
  · exact beginReload_keeps s
  · exact .refl s

theorem endLot_keeps (l : Lot) : Keeps s (endLot l s) := by
  unfold endLot
  refine Keeps.trans (Keeps.trans (Keeps.trans ?_ (postEvent_keeps _ _ _ _ _)) (wantPlan_keeps _)) (reloadIfDue_keeps _)
  refine (clearSeed_keeps s l.run).same (u := { clearSeed l.run s with
    wafers := s.wafers.map fun o => o.filter fun w => w.run != l.run
    lots := leaveQueue l.run s.lots }) ⟨rfl, rfl, rfl, rfl, rfl, rfl, rfl, ?_, .refl _⟩
  simp

theorem requestTest_keeps (run : Nat) : Keeps s (requestTest run s) := by
  unfold requestTest; split
  · exact .refl s
  · split
    · split
      · split
        · exact .refl s
        · exact (updLot_keeps s _ _).trans (joinReport_keeps _ _)
      · split
        · exact endLot_keeps s _
        · exact .refl s
    · exact .refl s

theorem closingTest_keeps (run : Nat) : Keeps s (closingTest run s) := by
  unfold closingTest
  refine Keeps.trans ?_ (requestTest_keeps _ _)
  split
  · exact .refl s
  · split
    · exact setLotState_keeps s _ _
    · exact .refl s

theorem closingTestOf_keeps (i : Nat) : Keeps s (closingTestOf i s) := by
  unfold closingTestOf; split
  · exact .refl s
  · exact closingTest_keeps s _

theorem holdByWatch_keeps (run w : Nat) : Keeps s (holdByWatch run w s) := by
  unfold holdByWatch; split
  · exact .refl s
  · split
    · exact (setLotState_keeps s _ _).trans (postEvent_keeps _ _ _ _ _)
    · exact .refl s

/-! ## The planner -/

theorem setPort_keeps (p : Port) (v : PortState) : Keeps s (setPort p v s) := by
  unfold setPort; split <;> exact (Same.keeps ⟨rfl, rfl, rfl, rfl, rfl, rfl, rfl, rfl, .refl _⟩)

theorem sendOrder_keeps (p : Plan) (r : Bool) : Keeps s (sendOrder p r s) :=
  (Same.keeps ⟨rfl, rfl, rfl, rfl, rfl, rfl, rfl, rfl, .refl _⟩)

theorem feedPhase_keeps (p : Plan) : Keeps s (feedPhase p s) := by
  unfold feedPhase; split
  · exact updWafer_keeps s _ _
  · exact .refl s

theorem issue_keeps (p : Plan) : Keeps s (issue p s) := (sendOrder_keeps s _ _).trans (feedPhase_keeps _ _)

theorem runPlanner_keeps : Keeps s (runPlanner s) := by
  unfold runPlanner; split
  · split
    · exact issue_keeps s _
    · exact (Same.keeps ⟨rfl, rfl, rfl, rfl, rfl, rfl, rfl, rfl, .refl _⟩)
  · exact .refl s

theorem finish_keeps : Keeps s (finish s) := by
  unfold finish; split
  · exact Keeps.after (runPlanner_keeps _) ⟨rfl, rfl, rfl, rfl, rfl, rfl, rfl, rfl, .refl _⟩
  · exact .refl s

/-! ## The end of a wafer's review -/

theorem retireEntry_keeps (st : EntryState) (e : Entry) : Keeps s (retireEntry st e s) :=
  (updEntry_keeps s e.index (fun x => { x with state := st }) fun _ => rfl).trans (handOverAt_keeps _ _)

theorem skipQueued_keeps (i : Nat) : Keeps s (skipQueued i s) := by
  unfold skipQueued
  generalize queuedList s i = es
  induction es generalizing s with
  | nil => exact .refl s
  | cons e es ih => exact (retireEntry_keeps s _ e).trans (ih _)

theorem fireWatch_keeps (run i n c : Nat) (w : Watch) : Keeps s (fireWatch run i n c w s) := by
  unfold fireWatch; dsimp only; split
  · exact (postEvent_keeps s _ _ _ _).trans (holdByWatch_keeps _ _ _)
  · exact postEvent_keeps s _ _ _ _

theorem fireWatches_keeps (run i : Nat) (o : Option WaferOutcome) (cs : List Nat) (n : Nat) (ws : List Watch)
    (rs : List Nat) : Keeps s (fireWatches run i o cs n ws rs s) := by
  induction ws generalizing s n rs with
  | nil => unfold fireWatches; exact .refl s
  | cons w ws ih =>
    cases rs with
    | nil => unfold fireWatches; exact .refl s
    | cons r rs =>
      unfold fireWatches
      refine Keeps.trans ?_ (ih _ _ _)
      split
      · exact fireWatch_keeps s _ _ _ _ _
      · exact .refl s

theorem planBeforeHold_keeps : Keeps s (planBeforeHold s) := by
  unfold planBeforeHold; dsimp only; split
  · exact Keeps.after (runPlanner_keeps _) ⟨rfl, rfl, rfl, rfl, rfl, rfl, rfl, rfl, .refl _⟩
  · exact (Same.keeps ⟨rfl, rfl, rfl, rfl, rfl, rfl, rfl, rfl, .refl _⟩)

theorem reportWafer_keeps (i : Nat) (w : Wafer) (a : WaferAcc) (l : Lot) : Keeps s (reportWafer i w a l s) := by
  unfold reportWafer
  dsimp only
  refine Keeps.trans (Keeps.trans (Keeps.trans ?_ (updLot_keeps _ _ _)) (joinReport_keeps _ _))
    (fireWatches_keeps _ _ _ _ _ _ _ _)
  split
  · exact planBeforeHold_keeps s
  · exact .refl s

theorem buildWaferReport_keeps (i : Nat) : Keeps s (buildWaferReport i s) := by
  unfold buildWaferReport; split
  · split
    · split
      · exact .refl s
      · exact reportWafer_keeps s _ _ _ _
    · exact .refl s
  · exact .refl s

theorem settleHome_keeps (i : Nat) : Keeps s (settleHome i s) := by
  unfold settleHome; split
  · exact .refl s
  · split
    · exact ((updWafer_keeps s _ _).trans (postEvent_keeps _ _ _ _ _)).trans (closingTestOf_keeps _ _)
    · exact .refl s

theorem dropPrealign_keeps (i : Nat) : Keeps s (dropPrealign i s) :=
  (Same.keeps ⟨rfl, rfl, rfl, rfl, rfl, rfl, rfl, rfl, .refl _⟩)

theorem dropAttempt_keeps (i : Nat) : Keeps s (dropAttempt i s) := updWafer_keeps s _ _

theorem releaseAlign_keeps (i : Nat) : Keeps s (releaseAlign i s) :=
  (Same.keeps ⟨rfl, rfl, rfl, rfl, rfl, rfl, rfl, rfl, .refl _⟩)

theorem afterReview_keeps (i : Nat) : Keeps s (afterReview i s) :=
  ((skipQueued_keeps s i).trans (buildWaferReport_keeps _ _)).trans (wantPlan_keeps _)

theorem enterReviewDone_keeps (i : Nat) (o : WaferOutcome) : Keeps s (enterReviewDone i o s) :=
  ((((((updWafer_keeps s _ _).trans (dropPrealign_keeps _ _)).trans (dropAttempt_keeps _ _)).trans
    (releaseAlign_keeps _ _)).trans (closingTestOf_keeps _ _)).trans (afterReview_keeps _ _)).trans
    (settleHome_keeps _ _)

theorem cutInSlot_keeps (i : Nat) : Keeps s (cutInSlot i s) :=
  ((updWafer_keeps s _ _).trans (closingTestOf_keeps _ _)).trans (afterReview_keeps _ _)

theorem moveWafer_keeps (i : Nat) (l : Location) : Keeps s (moveWafer i l s) := by
  unfold moveWafer; split
  · exact .refl s
  · dsimp only; split
    · exact (updWafer_keeps s _ _).trans (stageDeparture_keeps _ _)
    · exact updWafer_keeps s _ _

/-! ## Alignment -/

theorem acceptTransform_keeps (i : Nat) (w : Wafer) (t : Transform) : Keeps s (acceptTransform i w t s) := by
  unfold acceptTransform; dsimp only; split
  · exact ((updWafer_keeps s _ _).trans (postEvent_keeps _ _ _ _ _)).trans (releaseAlign_keeps _ _)
  · exact (updWafer_keeps s _ _).trans (postEvent_keeps _ _ _ _ _)

theorem refuseAttempt_keeps (i : Nat) (w : Wafer) (v : Verdict) : Keeps s (refuseAttempt i w v s) := by
  unfold refuseAttempt; dsimp only
  split
  · exact (updWafer_keeps s _ _).trans (postEvent_keeps _ _ _ _ _)
  · split
    · refine Keeps.trans ?_ (enterReviewDone_keeps _ _ _)
      split
      · exact ((updWafer_keeps s _ _).trans (postEvent_keeps _ _ _ _ _)).trans (releaseAlign_keeps _ _)
      · exact (updWafer_keeps s _ _).trans (postEvent_keeps _ _ _ _ _)
    · split
      · exact ((updWafer_keeps s _ _).trans (postEvent_keeps _ _ _ _ _)).trans (releaseAlign_keeps _ _)
      · exact (updWafer_keeps s _ _).trans (postEvent_keeps _ _ _ _ _)

theorem giveVerdict_keeps (i : Nat) : Keeps s (giveVerdict i s) := by
  unfold giveVerdict; split
  · exact .refl s
  · split
    · exact acceptTransform_keeps s _ _ _
    · exact refuseAttempt_keeps s _ _ _

theorem verdictIfWaiting_keeps (i : Nat) : Keeps s (verdictIfWaiting i s) := by
  unfold verdictIfWaiting; split
  · exact .refl s
  · split
    · exact giveVerdict_keeps s _
    · exact .refl s

theorem closeAttempt_keeps (i : Nat) : Keeps s (closeAttempt i s) := by
  unfold closeAttempt; split
  · exact updWafer_keeps s _ _
  · exact giveVerdict_keeps s _

theorem startRealign_keeps (i c : Nat) : Keeps s (startRealign i c s) := by
  unfold startRealign; split
  · exact .refl s
  · refine Keeps.trans ?_ (postEvent_keeps _ _ _ _ _)
    exact (updWafer_keeps s _ _).same ⟨rfl, rfl, rfl, rfl, rfl, rfl, rfl, rfl, .refl _⟩

theorem realignTest_keeps (i : Nat) : Keeps s (realignTest i s) := by
  unfold realignTest; split
  · exact .refl s
  · split
    · exact startRealign_keeps s _ _
    · exact .refl s

theorem driftUpdate_keeps (i : Nat) (r : ResultPart) : Keeps s (driftUpdate i r s) := by
  unfold driftUpdate; split
  · exact (updWafer_keeps s _ _).trans (realignTest_keeps _ _)
  · exact .refl s

theorem startAlign_keeps (i : Nat) : Keeps s (startAlign i s) := by
  unfold startAlign; split
  · exact .refl s
  · exact (updWafer_keeps s _ _).trans (postEvent_keeps _ _ _ _ _)

end Sys2Proof.Machine
end

