-- ==== Sys2Proof/Laws/KeepsVisits.lean ====
section
/-! SUPPORT. `Keeps` for the visit unit, the handling unit, the stage link and the focus unit's part of a
sample. -/

namespace Sys2Proof.Machine

variable (s : State)

/-- A change of the visit unit. -/
theorem visit_keeps (v : VisitUnit) : Keeps s { s with visit := v } :=
  Same.keeps (t := { s with visit := v }) ⟨rfl, rfl, rfl, rfl, rfl, rfl, rfl, rfl, .refl _⟩

/-- A change of the handling unit. -/
theorem handling_keeps (h : Handling) : Keeps s { s with handling := h } :=
  Same.keeps (t := { s with handling := h }) ⟨rfl, rfl, rfl, rfl, rfl, rfl, rfl, rfl, .refl _⟩

/-- A list of steps, each of which keeps. -/
theorem foldl_keeps {α : Type} (f : State → α → State) (h : ∀ t a, Keeps t (f t a)) (l : List α) :
    Keeps s (l.foldl f s) := by
  induction l generalizing s with
  | nil => exact .refl s
  | cons a l ih => exact (h s a).trans (ih _)

/-! ## Takes and visits -/

theorem enterMoving_keeps (e : Entry) : Keeps s (enterMoving e s) := by
  have h : Keeps s (updEntry e.index (fun x => { x with state := .moving, dispatched := true }) s) :=
    updEntry_keeps s _ _ fun _ => rfl
  unfold enterMoving
  dsimp only
  split
  · exact h
  · exact h.trans (updWafer_keeps _ _ _)

theorem sendMove_keeps (t : Point) : Keeps s (sendMove t s) := by
  unfold sendMove
  exact (visit_keeps s _).trans (send_keeps _ _)

theorem beginVisit_keeps (e : Entry) (t : Point) : Keeps s (beginVisit e t s) := by
  unfold beginVisit
  dsimp only
  refine Keeps.trans ?_ (visit_keeps _ _)
  exact ((enterMoving_keeps s e).trans (focusBegin_keeps _ _ _ _)).trans (sendMove_keeps _ _)

theorem takeNone_keeps (i : Nat) : Keeps s (takeNone i s) := by
  unfold takeNone; split
  · exact .refl s
  · split
    · exact enterReviewDone_keeps s _ _
    · exact .refl s

theorem takeFrom_keeps (i : Nat) (es : List Entry) : Keeps s (takeFrom i es s) := by
  induction es generalizing s with
  | nil => exact takeNone_keeps s i
  | cons e es ih =>
    unfold takeFrom
    split
    · exact (retireEntry_keeps s _ e).trans (ih _)
    · split
      · exact .refl s
      · split
        · exact beginVisit_keeps s _ _
        · exact (retireEntry_keeps s _ e).trans (ih _)

theorem dispatch_keeps : Keeps s (dispatch s) := by
  unfold dispatch; split
  · exact .refl s
  · exact takeFrom_keeps s _ _

theorem setVisit_keeps (v : Visit) : Keeps s (setVisit v s) :=
  (visit_keeps s _).trans (updEntry_keeps _ v.entry (fun e => { e with state := v.state.entryState }) fun _ => rfl)

theorem haltMove_keeps : Keeps s (haltMove s) := by
  unfold haltMove; split
  · exact .refl s
  · exact (visit_keeps s _).trans (send_keeps _ _)

theorem enterReady_keeps (v : Visit) (p : Bool) : Keeps s (enterReady v p s) :=
  (setVisit_keeps s _).trans (postEvent_keeps _ _ _ _ _)

theorem settleTest_keeps : Keeps s (settleTest s) := by
  unfold settleTest; split
  · exact .refl s
  · split
    · exact enterReady_keeps s _ _
    · exact .refl s

theorem completeAbort_keeps (i : Nat) : Keeps s (completeAbort i s) := by
  unfold completeAbort; split
  · exact .refl s
  · split
    · exact enterReviewDone_keeps s _ _
    · exact .refl s

theorem mapPointStep_keeps (v : Visit) (z : Option Int) (r : Option ResultPart) :
    Keeps s (mapPointStep v z r s) := by
  unfold mapPointStep; split
  · split
    · exact takePoint_keeps s _ _
    · exact .refl s
  · exact .refl s

theorem handOverStep_keeps (i : Nat) : Keeps s (handOverStep i s) := by
  unfold handOverStep; split
  · exact .refl s
  · split
    · exact handOver_keeps s _
    · exact .refl s

theorem driftStepOf_keeps (i : Nat) (r : Option ResultPart) : Keeps s (driftStepOf i r s) := by
  unfold driftStepOf; split
  · exact .refl s
  · exact driftUpdate_keeps s _ _

theorem endVisit_keeps (v : Visit) (r : Option ResultPart) : Keeps s (endVisit v r s) :=
  ((((((visit_keeps s _).trans (focusEnd_keeps _)).trans (driftStepOf_keeps _ _ _)).trans
    (mapPointStep_keeps _ _ _ _)).trans (handOverStep_keeps _ _)).trans (verdictIfWaiting_keeps _ _)).trans
    (completeAbort_keeps _ _) |>.trans (dispatch_keeps _)

theorem closeEntry_keeps (v : Visit) (st : EntryState) (n : Bool) (r : Option ResultPart) :
    Keeps s (closeEntry v st n r s) := updEntry_keeps s _ _ fun _ => rfl

theorem failVisit_keeps (v : Visit) (st : EntryState) : Keeps s (failVisit v st s) :=
  (closeEntry_keeps s _ _ _ _).trans (endVisit_keeps _ _ _)

theorem requeue_keeps (v : Visit) : Keeps s (requeue v s) := by
  unfold requeue
  refine Keeps.trans ?_ (endVisit_keeps _ _ _)
  exact updEntry_keeps s _ _ fun _ => rfl

theorem timedOutEvent_keeps (v : Visit) (c : Nat) : Keeps s (timedOutEvent v c s) := postEvent_keeps s _ _ _ _

theorem spoilVisit_keeps (v : Visit) : Keeps s (spoilVisit v s) := by
  unfold spoilVisit; split
  · exact requeue_keeps s v
  · exact (timedOutEvent_keeps s _ _).trans (failVisit_keeps _ _ _)

theorem tripVisit_keeps (v : Visit) : Keeps s (tripVisit v s) := by
  unfold tripVisit; split
  · exact (haltMove_keeps s).trans (requeue_keeps _ _)
  · exact (haltMove_keeps s).trans (failVisit_keeps _ _ _)

theorem abortVisit_keeps (i : Nat) : Keeps s (abortVisit i s) := by
  unfold abortVisit; split
  · exact .refl s
  · split
    · exact (haltMove_keeps s).trans (failVisit_keeps _ _ _)
    · exact .refl s

theorem abortWafer_keeps (i : Nat) : Keeps s (abortWafer i s) := by
  unfold abortWafer; split
  · exact .refl s
  · split
    · exact .refl s
    · exact (((updWafer_keeps s _ _).trans (dropAttempt_keeps _ _)).trans (abortVisit_keeps _ _)).trans
        (completeAbort_keeps _ _)

theorem cutWafer_keeps (i : Nat) : Keeps s (cutWafer i s) := by
  unfold cutWafer; split
  · exact .refl s
  · split
    · exact cutInSlot_keeps s _
    · exact enterReviewDone_keeps s _ _
    · exact enterReviewDone_keeps s _ _
    · exact enterReviewDone_keeps s _ _
    · exact abortWafer_keeps s _
    · exact abortWafer_keeps s _
    · exact .refl s
    · exact .refl s
    · exact .refl s

theorem abortLot_keeps (run : Nat) : Keeps s (abortLot run s) :=
  (setLotState_keeps s _ _).trans (foldl_keeps _ _ (fun t i => cutWafer_keeps t i) _)

/-! ## Handling -/

theorem setHandling_keeps (h : HandlingState) : Keeps s (setHandling h s) := handling_keeps s _

theorem haltHandling_keeps (w : Option Nat) (r : Nat) (b : Word) : Keeps s (haltHandling w r b s) :=
  (setHandling_keeps s _).trans (postEvent_keeps _ _ _ _ _)

theorem idleHandling_keeps : Keeps s (idleHandling s) := (setHandling_keeps s _).trans (wantPlan_keeps _)

theorem clearOrder_keeps : Keeps s (clearOrder s) := handling_keeps s _

theorem removeLate_keeps (i : Nat) : Keeps s (removeLate i s) := by
  unfold removeLate; split
  · exact .refl s
  · split
    · exact moveWafer_keeps s _ _
    · exact .refl s

theorem resolveEnd_keeps (o : Order) (r : Option Nat) : Keeps s (resolveEnd o r s) := by
  unfold resolveEnd; split
  · split
    · exact haltHandling_keeps s _ _ _
    · exact idleHandling_keeps s
  · dsimp only
    have h : Keeps s { removeLate o.wafer s with handling := { (removeLate o.wafer s).handling with removals := [] } } :=
      (removeLate_keeps s _).trans (handling_keeps _ _)
    split
    · split
      · exact h.trans (haltHandling_keeps _ _ _ _)
      · exact h.trans (haltHandling_keeps _ _ _ _)
    · exact h.trans (idleHandling_keeps _)

theorem arriveOnStage_keeps (i : Nat) : Keeps s (arriveOnStage i s) := by
  unfold arriveOnStage; split
  · exact .refl s
  · dsimp only; split
    · exact (postEvent_keeps s _ _ _ _).trans (startAlign_keeps _ _)
    · exact postEvent_keeps s _ _ _ _

theorem startPrealign_keeps (i : Nat) : Keeps s (startPrealign i s) := by
  unfold startPrealign; split
  · exact .refl s
  · dsimp only; split
    · exact (updWafer_keeps s _ _).trans (handling_keeps _ _)
    · exact .refl s

theorem afterArrival_keeps (o : Order) : Keeps s (afterArrival o s) := by
  unfold afterArrival; split
  · exact startPrealign_keeps s _
  · exact arriveOnStage_keeps s _
  · exact settleHome_keeps s _
  all_goals exact .refl s

theorem completeOrder_keeps (o : Order) : Keeps s (completeOrder o s) :=
  ((clearOrder_keeps s).trans (moveWafer_keeps _ _ _)).trans (afterArrival_keeps _ _)

theorem loseWafer_keeps (o : Order) : Keeps s (loseWafer o s) := (clearOrder_keeps s).trans (moveWafer_keeps _ _ _)

theorem notMoved_keeps (o : Order) : Keeps s (notMoved o s) := by
  unfold notMoved; split
  · exact (loseWafer_keeps s _).trans (resolveEnd_keeps _ _ _)
  · split
    · exact ((clearOrder_keeps s).trans (settleHome_keeps _ _)).trans (idleHandling_keeps _)
    · split
      · exact sendOrder_keeps s _ _
      · exact ((clearOrder_keeps s).trans (settleHome_keeps _ _)).trans (resolveEnd_keeps _ _ _)

theorem lateDone_keeps (t : BitVec 8) (r : DoneResult) : Keeps s (lateDone t r s) := postEvent_keeps s _ _ _ _

theorem takeDone_keeps (t : BitVec 8) (r : DoneResult) : Keeps s (takeDone t r s) := by
  unfold takeDone; split
  · exact lateDone_keeps s _ _
  · split
    · exact lateDone_keeps s _ _
    · split
      · exact (completeOrder_keeps s _).trans (resolveEnd_keeps _ _ _)
      · exact (loseWafer_keeps s _).trans (resolveEnd_keeps _ _ _)
      · exact notMoved_keeps s _
      · exact notMoved_keeps s _

theorem expireOrder_keeps : Keeps s (expireOrder s) := by
  unfold expireOrder; split
  · exact .refl s
  · split
    · exact ((loseWafer_keeps s _).trans (handling_keeps _ _)).trans (resolveEnd_keeps _ _ _)
    · exact .refl s

theorem recover_keeps (i : Nat) (l : Location) : Keeps s (recover i l s) := by
  have h : Keeps s (settleHome i (if (waferAt (moveWafer i l s) i).any fun w => w.phase == .toPA || w.phase == .prealigned
      then enterReviewDone i .cut (moveWafer i l s) else moveWafer i l s)) := by
    refine Keeps.trans ?_ (settleHome_keeps _ _)
    split
    · exact (moveWafer_keeps s _ _).trans (enterReviewDone_keeps _ _ _)
    · exact moveWafer_keeps s _ _
  have k : ∀ t, Keeps s t → Keeps s (if anyUnknown t then t else idleHandling t) := by
    intro t ht; split
    · exact ht
    · exact ht.trans (idleHandling_keeps _)
  exact k _ h

theorem clearPrealign_keeps : Keeps s (clearPrealign s) := handling_keeps s _

theorem takePrealigned_keeps (i : Nat) (p : Prealign) : Keeps s (takePrealigned i p s) := by
  unfold takePrealigned; split
  · exact .refl s
  · split
    · exact ((clearPrealign_keeps s).trans (updWafer_keeps _ _ _)).trans (wantPlan_keeps _)
    · exact .refl s

theorem failPrealign_keeps (i c : Nat) : Keeps s (failPrealign i c s) := by
  unfold failPrealign; dsimp only
  refine Keeps.trans (Keeps.trans ?_ (postEvent_keeps _ _ _ _ _)) (wantPlan_keeps _)
  split
  · exact (clearPrealign_keeps s).trans (enterReviewDone_keeps _ _ _)
  · exact clearPrealign_keeps s

theorem takePrealignFail_keeps (i : Nat) : Keeps s (takePrealignFail i s) := by
  unfold takePrealignFail; split
  · exact .refl s
  · split
    · exact failPrealign_keeps s _ _
    · exact .refl s

theorem expirePrealign_keeps : Keeps s (expirePrealign s) := by
  unfold expirePrealign; split
  · exact .refl s
  · split
    · exact failPrealign_keeps s _ _
    · exact .refl s

theorem takePort_keeps (p : Port) (a b : Bool) : Keeps s (takePort p a b s) := by
  unfold takePort; dsimp only; split
  · exact .refl s
  · exact setPort_keeps s _ _

theorem takeSlotmap_keeps (p : Port) (f : BitVec 25) : Keeps s (takeSlotmap p f s) := by
  unfold takeSlotmap; dsimp only; split
  · exact setPort_keeps s _ _
  · exact .refl s

theorem portClosed_keeps (p : Port) : Keeps s (portClosed p s) := by
  unfold portClosed; split
  · exact .refl s
  · split
    · exact .refl s
    · exact postEvent_keeps s _ _ _ _

theorem carrierRemoved_keeps (p : Port) : Keeps s (carrierRemoved p s) := by
  unfold carrierRemoved; split
  · exact .refl s
  · rename_i l _
    have h1 : Keeps s (if l.state = .aborting ∨ l.state = .closing then s else abortLot l.run s) := by
      split
      · exact .refl s
      · exact abortLot_keeps s _
    dsimp only
    generalize (if l.state = .aborting ∨ l.state = .closing then s else abortLot l.run s) = s1 at h1 ⊢
    have h2 := h1.trans (foldl_keeps s1 (fun s i => moveWafer i .unknown s) (fun t i => moveWafer_keeps t i _)
      (removedWafers s1 l.run))
    split
    · exact h2.trans (handling_keeps _ _)
    · split
      · exact h2
      · exact h2.trans (haltHandling_keeps _ _ _ _)

theorem expireDebounce_keeps (p : Port) : Keeps s (expireDebounce p s) := by
  unfold expireDebounce
  generalize portState s p = q
  dsimp only
  split
  · have h1 : ∀ v, Keeps s (setPort p v s) := fun v => setPort_keeps s p v
    have h2 : ∀ (b : Bool) t, Keeps s t → Keeps s (if b then portClosed p t else t) := by
      intro b t h; split
      · exact h.trans (portClosed_keeps _ _)
      · exact h
    have h3 : ∀ (b : Bool) t, Keeps s t → Keeps s (if b then carrierRemoved p t else t) := by
      intro b t h; split
      · exact h.trans (carrierRemoved_keeps _ _)
      · exact h
    have h4 : ∀ (b : Bool) t, Keeps s t → Keeps s (if b then wantPlan t else t) := by
      intro b t h; split
      · exact h.trans (wantPlan_keeps _)
      · exact h
    exact h4 _ _ (h3 _ _ (h2 _ _ (h1 _)))
  · exact .refl s

/-! ## The stage link, the strobe and the visit timers -/

theorem takePosition_keeps (p : Point) : Keeps s (takePosition p s) := visit_keeps s _

theorem endMove_keeps : Keeps s (endMove s) := visit_keeps s _

theorem enterSettling_keeps (v : Visit) (p : Point) : Keeps s (enterSettling v p s) :=
  ((endMove_keeps s).trans (setVisit_keeps _ _)).trans (settleTest_keeps _)

theorem takeArrived_keeps (t : BitVec 8) (p : Point) : Keeps s (takeArrived t p s) := by
  unfold takeArrived; split
  · exact .refl s
  · split
    · exact enterSettling_keeps s _ _
    · exact .refl s

theorem holdStage_keeps : Keeps s (holdStage s) := visit_keeps s _

theorem stageFaultEvent_keeps (w : Option Nat) (c : Nat) (t : BitVec 8) (f : BitVec 16) :
    Keeps s (stageFaultEvent w c t f s) := postEvent_keeps s _ _ _ _

theorem faultOfMove_keeps (v : Visit) (t : BitVec 8) (f : BitVec 16) : Keeps s (faultOfMove v t f s) :=
  ((endMove_keeps s).trans (stageFaultEvent_keeps _ _ _ _ _)).trans (spoilVisit_keeps _ _)

theorem strayFaultVisit_keeps : Keeps s (strayFaultVisit s) := by
  unfold strayFaultVisit; split
  · exact .refl s
  · split
    · exact .refl s
    · exact spoilVisit_keeps s _
    · exact spoilVisit_keeps s _
    · exact .refl s

theorem strayFault_keeps (t : BitVec 8) (f : BitVec 16) : Keeps s (strayFault t f s) :=
  (stageFaultEvent_keeps s _ _ _ _).trans (strayFaultVisit_keeps _)

theorem takeFault_keeps (t : BitVec 8) (f : BitVec 16) : Keeps s (takeFault t f s) := by
  have h : Keeps s (holdStage { s with visit := { s.visit with faultCode := f } }) :=
    (visit_keeps s _).trans (holdStage_keeps _)
  unfold takeFault
  generalize holdStage { s with visit := { s.visit with faultCode := f } } = s1 at h ⊢
  dsimp only
  split
  · exact h.trans (strayFault_keeps _ _ _)
  · split
    · exact h.trans (faultOfMove_keeps _ _ _ _)
    · exact h.trans (strayFault_keeps _ _ _)

theorem takeStrobe_keeps : Keeps s (takeStrobe s) := by
  unfold takeStrobe; split
  · exact .refl s
  · split
    · exact (recordStrobe_keeps s).trans (setVisit_keeps _ _)
    · exact .refl s

theorem expireMove_keeps : Keeps s (expireMove s) := by
  unfold expireMove; split
  · exact .refl s
  · exact (((haltMove_keeps s).trans (holdStage_keeps _)).trans (stageFaultEvent_keeps _ _ _ _ _)).trans
      (spoilVisit_keeps _ _)

theorem expireSettle_keeps : Keeps s (expireSettle s) := by
  unfold expireSettle; split
  · exact .refl s
  · split
    · exact enterReady_keeps s _ _
    · exact failVisit_keeps s _ _

theorem expireResult_keeps : Keeps s (expireResult s) := by
  unfold expireResult; split
  · exact .refl s
  · exact (timedOutEvent_keeps s _ _).trans (failVisit_keeps _ _ _)

/-! ## A sample -/

theorem focusSample_keeps (z : Word) (q : Byte) : Keeps s (focusSample z q s) := by
  unfold focusSample
  dsimp only
  split
  · exact (payDebt_keeps s).trans (recordSample_keeps _ _ _)
  · have h := ((payDebt_keeps s).trans (lockSample_keeps _ ‹_› z q)).trans (recordSample_keeps _ z q)
    split
    · exact h.trans (settleTest_keeps _)
    · exact h

theorem tripEvent_keeps (k : Nat) (z : Word) : Keeps s (tripEvent k z s) := postEvent_keeps s _ _ _ _

theorem releaseEvent_keeps (k : Nat) (z : Word) : Keeps s (releaseEvent k z s) := postEvent_keeps s _ _ _ _

theorem hardTripActions_keeps : Keeps s (hardTripActions s) := by
  unfold hardTripActions
  dsimp only
  split
  · exact visit_keeps s _
  · exact (visit_keeps s _).trans (tripVisit_keeps _ _)

/-- Two units in either order, each of which keeps. -/
theorem inEitherOrder_keeps (f g : State → State) (hf : ∀ t, Keeps t (f t)) (hg : ∀ t, Keeps t (g t)) :
    Keeps s (inEitherOrder f g s) := by
  unfold inEitherOrder
  split
  · have h : Keeps s { s with choices := s.choices + 1 } :=
      Same.keeps ⟨rfl, rfl, rfl, rfl, rfl, rfl, rfl, rfl, .refl _⟩
    dsimp only
    split
    · exact (h.trans (hg _)).trans (hf _)
    · exact (h.trans (hf _)).trans (hg _)
  · exact (hf s).trans (hg _)

end Sys2Proof.Machine
end

