-- ==== Sys2Proof/Laws/Memory.lean ====
section
/-! SUPPORT. Review memory: every operation on it keeps the canonical form, a byte read after a write, and what
a downstream burst reads and writes. -/

namespace Sys2Proof.Machine

/-! ## The canonical form -/

/-- Every address of a canonical memory is above a bound. -/
def Memory.above (b : Nat) : Memory → Prop
  | [] => True
  | (a, _) :: m => b < a ∧ Memory.above b m

theorem Memory.above_mono {b c : Nat} (h : c ≤ b) : ∀ {m : Memory}, Memory.above b m → Memory.above c m
  | [], _ => trivial
  | (_, _) :: _, ⟨h1, h2⟩ => ⟨Nat.lt_of_le_of_lt h h1, Memory.above_mono h h2⟩

/-- The canonical form, cell by cell. -/
theorem Memory.wf_cons (a : Nat) (v : Byte) (m : Memory) :
    Memory.wf ((a, v) :: m) = true ↔ v ≠ unwrittenByte ∧ Memory.above a m ∧ Memory.wf m = true := by
  induction m generalizing a v with
  | nil => simp [Memory.wf, Memory.above]
  | cons c m ih =>
    obtain ⟨b, w⟩ := c
    rw [Memory.wf]
    constructor
    · intro h
      simp only [Bool.and_eq_true, decide_eq_true_eq, bne_iff_ne, ne_eq] at h
      have hb := (ih b w).mp h.2
      exact ⟨h.1.2, ⟨h.1.1, Memory.above_mono (Nat.le_of_lt h.1.1) hb.2.1⟩, h.2⟩
    · rintro ⟨h1, h2, h3⟩
      simp only [Bool.and_eq_true, decide_eq_true_eq, bne_iff_ne, ne_eq]
      exact ⟨⟨h2.1, h1⟩, h3⟩

theorem writeByte_above {b : Nat} (a : Nat) (v : Byte) (hb : b < a) :
    ∀ {m : Memory}, Memory.above b m → Memory.above b (writeByte m a v)
  | [], _ => by
    unfold writeByte; split
    · trivial
    · exact ⟨hb, trivial⟩
  | (c, w) :: m, h => by
    unfold writeByte
    split
    · split
      · exact h
      · exact ⟨hb, h⟩
    · split
      · split
        · exact h.2
        · exact ⟨hb, h.2⟩
      · exact ⟨h.1, writeByte_above a v hb h.2⟩

/-- A written byte keeps the canonical form. -/
theorem writeByte_wf (a : Nat) (v : Byte) :
    ∀ {m : Memory}, Memory.wf m = true → Memory.wf (writeByte m a v) = true
  | [], _ => by
    unfold writeByte; split
    · rfl
    · rename_i h; simpa [Memory.wf] using h
  | (c, w) :: m, h => by
    have hm := (Memory.wf_cons c w m).mp h
    unfold writeByte
    split
    · rename_i hac
      split
      · exact h
      · rename_i hv
        exact (Memory.wf_cons _ _ _).mpr
          ⟨hv, ⟨hac, Memory.above_mono (Nat.le_of_lt hac) hm.2.1⟩, h⟩
    · split
      · rename_i _ hac
        subst hac
        split
        · exact hm.2.2
        · rename_i hv; exact (Memory.wf_cons _ _ _).mpr ⟨hv, hm.2.1, hm.2.2⟩
      · rename_i h1 h2
        refine (Memory.wf_cons _ _ _).mpr ⟨hm.1, writeByte_above a v ?_ hm.2.1, writeByte_wf a v hm.2.2⟩
        omega

theorem writeLane_wf (d : Word) (e : BitVec 4) (a k : Nat) {m : Memory} (h : Memory.wf m = true) :
    Memory.wf (writeLane d e a k m) = true := by
  unfold writeLane; split
  · exact writeByte_wf _ _ h
  · exact h

theorem writeWord_wf (a : Nat) (d : Word) (e : BitVec 4) {m : Memory} (h : Memory.wf m = true) :
    Memory.wf (writeWord m a d e) = true :=
  writeLane_wf _ _ _ _ (writeLane_wf _ _ _ _ (writeLane_wf _ _ _ _ (writeLane_wf _ _ _ _ h)))

theorem writeWords_wf (ws : List Word) : ∀ (a : Nat) {m : Memory}, Memory.wf m = true →
    Memory.wf (writeWords m a ws) = true := by
  induction ws with
  | nil => intro a m h; exact h
  | cons w ws ih => intro a m h; exact ih _ (writeWord_wf _ _ _ h)

theorem runBurst_wf (got : List Word) (b : Burst) {m : Memory} (h : Memory.wf m = true) :
    Memory.wf (runBurst m got b).1 = true := by
  cases b with
  | read a n => exact h
  | write a ws => exact writeWords_wf _ _ h

theorem runBursts_wf (bs : List Burst) : ∀ (got : List Word) {m : Memory}, Memory.wf m = true →
    Memory.wf (runBursts m got bs).1 = true := by
  induction bs with
  | nil => intro got m h; exact h
  | cons b bs ih => intro got m h; exact ih _ (runBurst_wf _ _ h)

theorem forward_wf (a : Nat) (d : Word) (e : BitVec 4) (s : State) (h : Memory.wf s.mem = true) :
    Memory.wf (forward a d e s).mem = true := writeWord_wf _ _ _ h

theorem finishHead_wf (s : State) (h : Memory.wf s.mem = true) : Memory.wf (finishHead s).mem = true := by
  unfold finishHead; split
  · exact h
  · exact runBursts_wf _ _ h

theorem idleBurst_wf (s : State) (h : Memory.wf s.mem = true) : Memory.wf (idleBurst s).mem = true := by
  unfold idleBurst; split
  · split
    · exact runBurst_wf _ _ h
    · exact h
  · exact h

/-- Memory after reset has the canonical form. -/
theorem reset_mem_wf : Memory.wf State.reset.mem = true := rfl

/-! ## A read after a write -/

theorem readByte_above {b : Nat} {a : Nat} (h : a ≤ b) : ∀ {m : Memory}, Memory.above b m →
    readByte m a = unwrittenByte
  | [], _ => rfl
  | (c, v) :: m, hm => by
    have : a ≠ c := by have := hm.1; omega
    rw [readByte, if_neg this]
    exact readByte_above h hm.2

/-- A byte reads as it was written. -/
theorem readByte_writeByte_same (a : Nat) (v : Byte) : ∀ {m : Memory}, Memory.wf m = true →
    readByte (writeByte m a v) a = v
  | [], _ => by
    unfold writeByte; split
    · rename_i h; simp [readByte, h]
    · simp [readByte]
  | (c, w) :: m, h => by
    have hm := (Memory.wf_cons c w m).mp h
    unfold writeByte
    split
    · rename_i hac
      split
      · rename_i hv
        rw [readByte, if_neg (by omega), readByte_above (Nat.le_of_lt hac) hm.2.1, hv]
      · simp [readByte]
    · split
      · rename_i _ hac
        subst hac
        split
        · rename_i hv; rw [readByte_above (Nat.le_refl _) hm.2.1, hv]
        · simp [readByte]
      · rename_i h2
        rw [readByte, if_neg h2]
        exact readByte_writeByte_same a v hm.2.2

/-- A written byte leaves every other byte as it was. -/
theorem readByte_writeByte_other (a b : Nat) (v : Byte) (hb : b ≠ a) : ∀ (m : Memory),
    readByte (writeByte m a v) b = readByte m b
  | [] => by
    unfold writeByte; split
    · rfl
    · simp [readByte, hb]
  | (c, w) :: m => by
    unfold writeByte
    split
    · split
      · rfl
      · rw [readByte, if_neg hb]
    · split
      · rename_i _ hac
        subst hac
        split
        · rw [readByte, if_neg hb]
        · rw [readByte, readByte, if_neg hb, if_neg hb]
      · rw [readByte, readByte, readByte_writeByte_other a b v hb m]

theorem readByte_writeLane_other (d : Word) (e : BitVec 4) (a k b : Nat) (h : b ≠ a + k) (m : Memory) :
    readByte (writeLane d e a k m) b = readByte m b := by
  unfold writeLane; split
  · exact readByte_writeByte_other _ _ _ h m
  · rfl

/-- A bus write leaves the bytes outside its word as they were. -/
theorem readByte_writeWord_outside (m : Memory) (a : Nat) (d : Word) (e : BitVec 4) (b : Nat)
    (h : b < a ∨ a + 4 ≤ b) : readByte (writeWord m a d e) b = readByte m b := by
  unfold writeWord
  rw [readByte_writeLane_other _ _ _ _ _ (by omega), readByte_writeLane_other _ _ _ _ _ (by omega),
    readByte_writeLane_other _ _ _ _ _ (by omega), readByte_writeLane_other _ _ _ _ _ (by omega)]

theorem readByte_writeLane_same (d : Word) (e : BitVec 4) (a k : Nat) {m : Memory} (h : Memory.wf m = true) :
    readByte (writeLane d e a k m) (a + k) = if e.getLsbD k then lane d k else readByte m (a + k) := by
  unfold writeLane; split
  · exact readByte_writeByte_same _ _ h
  · rfl

/-- A bus write changes the enabled lanes of its word, and no other (R178). -/
theorem readByte_writeWord_lane (m : Memory) (a : Nat) (d : Word) (e : BitVec 4) (k : Nat) (hk : k < 4)
    (h : Memory.wf m = true) :
    readByte (writeWord m a d e) (a + k) = if e.getLsbD k then lane d k else readByte m (a + k) := by
  have h0 := writeLane_wf d e a 0 h
  have h1 := writeLane_wf d e a 1 h0
  have h2 := writeLane_wf d e a 2 h1
  unfold writeWord
  obtain rfl | rfl | rfl | rfl : k = 0 ∨ k = 1 ∨ k = 2 ∨ k = 3 := by omega
  · rw [readByte_writeLane_other _ _ _ _ _ (by omega), readByte_writeLane_other _ _ _ _ _ (by omega),
      readByte_writeLane_other _ _ _ _ _ (by omega), readByte_writeLane_same _ _ _ _ h]
  · rw [readByte_writeLane_other _ _ _ _ _ (by omega), readByte_writeLane_other _ _ _ _ _ (by omega),
      readByte_writeLane_same _ _ _ _ h0, readByte_writeLane_other _ _ _ _ _ (by omega)]
  · rw [readByte_writeLane_other _ _ _ _ _ (by omega), readByte_writeLane_same _ _ _ _ h1,
      readByte_writeLane_other _ _ _ _ _ (by omega), readByte_writeLane_other _ _ _ _ _ (by omega)]
  · rw [readByte_writeLane_same _ _ _ _ h2, readByte_writeLane_other _ _ _ _ _ (by omega),
      readByte_writeLane_other _ _ _ _ _ (by omega), readByte_writeLane_other _ _ _ _ _ (by omega)]

end Sys2Proof.Machine
end

