-- ==== Sys2Proof/Laws/Path.lean ====
section
/-! SUPPORT. The path unit: what a write to a cell of the configuration page does, and what the end of a step
leaves. -/

namespace Sys2Proof.Machine

variable (s : State)

/-! ## The end of a step -/

theorem runPlanner_runDue (h : s.handling.runDue = false) : (runPlanner s).handling.runDue = false := by
  unfold runPlanner; split
  · split
    · unfold issue feedPhase; split <;> simpa [sendOrder, send] using h
    · exact h
  · exact h

/-- No planner run is left due (log 9). -/
theorem finish_runDue : (finish s).handling.runDue = false := by
  unfold finish; split
  · exact runPlanner_runDue _ rfl
  · rename_i h; simpa using h

/-- Without a run due, the end of a step changes nothing. -/
theorem finish_idle (h : s.handling.runDue = false) : finish s = s := by unfold finish; simp [h]

/-! ## Queue places and the arbiter -/

/-- Where the word that stands first waits for no place, nothing changes (R184). -/
theorem noteWait_id (h : s.path.upWait.head?.any (waitsForPlace s) = false) : noteWait s = s := by
  unfold noteWait notedWaiters; rw [h]; rfl

/-- With no word waiting, no FETCH waits for a queue place (R184). -/
theorem noteWait_noneWaits (h : s.path.upWait = []) : noteWait s = s := noteWait_id s (by rw [h]; rfl)

/-- Where the head of the report queue lacks no place, nothing changes (R184). -/
theorem noteReport_id (h : reportLacksPlace s = false) : noteReport s = s := by unfold noteReport; rw [h]; rfl

/-- With a place free and no producer waiting, the head of the report queue lacks none (R184). -/
theorem reportLacksPlace_free (h : s.path.waiters = []) (hd : depth s < 16) : reportLacksPlace s = false := by
  simp [reportLacksPlace, mayTakePlace, Config.jobPlaces, h, hd]

/-- With no word waiting, a job joins the queue, and only a REPORT may begin to wait. -/
theorem pushJob_noneWaits (j : Job) (h : s.path.upWait = []) :
    pushJob j s = noteReport { s with path := { s.path with jobs := s.path.jobs ++ [j] } } :=
  congrArg noteReport (noteWait_noneWaits { s with path := { s.path with jobs := s.path.jobs ++ [j] } } h)

/-- With no word and no producer waiting, a job that leaves a place free joins the queue and nothing else changes. -/
theorem pushJob_free (j : Job) (h : s.path.upWait = []) (hw : s.path.waiters = []) (hd : depth s < 15) :
    pushJob j s = { s with path := { s.path with jobs := s.path.jobs ++ [j] } } := by
  rw [pushJob_noneWaits _ j h, noteReport_id]
  refine reportLacksPlace_free _ hw ?_
  simp only [depth, List.length_append, List.length_singleton] at hd ⊢
  omega

/-- The head of the waiting words stands among the producers exactly when it waits already, or lacks a place (R184). -/
theorem mem_notedWaiters : Producer.fetch ∈ notedWaiters s ↔
    Producer.fetch ∈ s.path.waiters ∨ ∃ u us, s.path.upWait = u :: us ∧ waitsForPlace s u = true := by
  unfold notedWaiters
  cases h : s.path.upWait with
  | nil => simp
  | cons u us => by_cases hw : waitsForPlace s u = true <;> simp [hw, joinWaiters]; split <;> simp [*]

/-- With no word waiting, the bus is the jobs' unless an upstream burst holds it (R185). -/
theorem jobsHaveBus_noneWaits (h : s.path.upWait = []) : jobsHaveBus s = (s.path.upBurst == .none) := by
  simp [jobsHaveBus, upstreamClaims, h]

/-- A completion finds its job at the head exactly where the bus is the jobs' to use (R183, R185). -/
theorem headKind_eq_some (k : JobKind) :
    headKind s = some k ↔ jobsHaveBus s = true ∧ ∃ j js, s.path.jobs = j :: js ∧ j.kind = k := by
  unfold headKind
  cases jobsHaveBus s <;> simp
  cases s.path.jobs <;> simp

@[simp] theorem words_length (r : ReadAccess) : r.words.length = r.after.val + 1 := by simp [ReadAccess.words]

/-! ## Writes to the configuration page -/

/-- After a word that goes to memory, the burst has the bus exactly while more of its words follow (R185). -/
theorem after_carried (more : Bool) (b : UpBurst) : b.after true more = if more then .carried else .none := by
  cases more <;> rfl

/-- The burst keeps the bus from job bursts exactly while more of its words follow (R185). -/
theorem after_none (c more : Bool) (b : UpBurst) : b.after c more = .none ↔ more = false := by
  unfold UpBurst.after; cases more <;> simp; split <;> simp

theorem covers_stop (z : Zone) (a : Nat) (h : z.stop ≤ a) : z.covers a = false := by
  simp only [Zone.covers, Bool.and_eq_false_iff, decide_eq_false_iff_not]
  exact .inr (by omega)

theorem zoneAt_stop (h : PageClear s) (i : Nat) (hk : (zoneAt s i).kind ≠ .unused) :
    (zoneAt s i).stop ≤ 0xFFF000 := by
  unfold zoneAt at hk ⊢; split at hk
  · rename_i hm
    rw [if_pos hm]
    by_cases hi : i < s.path.zones.length
    · simp only [List.getD, hi, getElem?_pos, Option.getD_some] at hk ⊢
      exact h.zones _ (List.getElem_mem hi) hk
    · simp [List.getD, Nat.le_of_not_lt hi, Zone.unused] at hk
  · exact absurd rfl hk

theorem zoneProtects_outside (z : Zone) (a : Nat) (h : z.kind ≠ .unused → z.stop ≤ a) : zoneProtects s z a = false := by
  by_cases hk : z.kind = .unused
  · unfold zoneProtects; rw [hk]
  · have := covers_stop z a (h hk)
    unfold zoneProtects
    split <;> simp [Zone.guards, layoutInUse, this]

/-- No zone protects a word of the configuration page. -/
theorem protectedBy_page (h : PageClear s) (a : Nat) (ha : 0xFFF000 ≤ a) : protectedBy s a = none := by
  unfold protectedBy
  rw [List.find?_eq_none]
  intro i _
  rw [zoneProtects_outside s _ _ fun hk => Nat.le_trans (zoneAt_stop s h i hk) ha]
  simp

/-- No slot holds a word of the configuration page. -/
theorem slotAt_page (h : PageClear s) (a : Nat) (ha : 0xFFF000 ≤ a) : slotAt s a = none := by
  unfold slotAt
  rw [Option.map_eq_none_iff, List.find?_eq_none]
  intro z hz
  obtain ⟨i, _, rfl⟩ := List.mem_map.mp hz
  by_cases hk : (zoneAt s i).kind = .unused
  · simp [hk, ZoneKind.hasSlots]
  · simp [covers_stop _ _ (Nat.le_trans (zoneAt_stop s h i hk) ha)]

theorem natureOf_page (h : PageClear s) (u : UpWord) (d : Word) (e : BitVec 4) (hu : u.access = .write d e)
    (ha : 0xFFF000 ≤ u.addr) : natureOf s u = .forwarded := by
  unfold natureOf
  rw [hu]
  simp only [protectedBy_page s h _ ha, postingOf, slotAt_page s h _ ha]
  split
  · rename_i h2; split at h2 <;> cases h2
  · rfl

/-- A write to the configuration page of an open path is served at once. -/
theorem upstream_page (h : PageOpen s) (u : UpWord) (d : Word) (e : BitVec 4) (hu : u.access = .write d e)
    (ha : 0xFFF000 ≤ u.addr) :
    upstream u s = finish (watchWrite u.addr d e { s with
      mem := writeWord s.mem u.addr d e, path := { s.path with upBurst := if u.more then .carried else .none } }) := by
  have hn := natureOf_page s h.page u d e hu ha
  have hw : mustWait s u = false := by
    have h1 : onHeldSlot s u = false := by
      unfold onHeldSlot
      rw [hu]
      simp only [List.contains_eq_mem, decide_eq_false_iff_not]
      intro hm
      have := h.page.held _ hm
      omega
    have h2 := h.bus.notLoading
    have h3 := h.bus.shallow
    simp [mustWait, pathHolds, h1, h2, h.bus.notDraining, hn, lacksPlace, yieldsToJobs, Config.jobsFirstDepth]
    intro _ h4
    have := of_decide_eq_true h4
    omega
  have hb : natureOf (takeBus u s) u = .forwarded :=
    natureOf_page (takeBus u s) ⟨h.page.zones, h.page.held⟩ u d e hu ha
  unfold upstream
  rw [h.bus.noneWaits]
  simp only [hw, Bool.false_eq_true, if_false]
  unfold serveWord serveAccess
  rw [hu]
  simp only [hb]
  simp [takeBus, hn, Nature.carries, forward, after_carried]

theorem cellIndex_addr (offset : Nat) (h4 : offset % 4 = 0) (hl : offset < 0x1000) :
    4 * (cellIndex offset).toNat = 0xFFF000 + offset := by
  simp only [cellIndex, Config.pageBase, BitVec.toNat_ofNat]
  omega

/-- A cell's write, served by an open path (R166). -/
theorem upstream_cellWrite (h : PageOpen s) (offset : Nat) (w : WordWrite) (h4 : offset % 4 = 0)
    (hl : offset < 0x1000) :
    upstream (cellWrite offset w) s = finish (watchCell offset w.data w.lanes (cellSeen offset w s)) := by
  have ha : (cellWrite offset w).addr = 0xFFF000 + offset := cellIndex_addr offset h4 hl
  rw [upstream_page s h _ w.data w.lanes rfl (by omega), ha]
  simp [watchWrite, Config.pageBase, cellSeen, cellWrite]
  rfl

/-- A command's write, served by an open path (R188). -/
theorem upstream_commandWrite (h : PageOpen s) (value : BitVec 8) (w : CommandWrite) :
    upstream (commandWrite value w) s =
      finish (takeCommand value { s with
        mem := writeWord s.mem 0xFFF100 (w.upper ++ value : BitVec (24 + 8)) (w.lanes ++ 1#1 : BitVec (3 + 1))
        path := { s.path with upBurst := if w.more then .carried else .none } }) := by
  have ha : (commandWrite value w).addr = 0xFFF000 + 0x100 := cellIndex_addr 0x100 rfl (by decide)
  have h0 : (w.lanes ++ 1#1 : BitVec (3 + 1)).getLsbD 0 = true := by
    have hl : ∀ l : BitVec 3, (l ++ 1#1 : BitVec (3 + 1)).getLsbD 0 = true := by decide
    exact hl w.lanes
  have h1 : lane (w.upper ++ value : BitVec (24 + 8)) 0 = value := by
    unfold lane
    apply BitVec.eq_of_getLsbD_eq
    intro i hi
    have : (w.upper ++ value : BitVec (24 + 8)).getLsbD i = value.getLsbD i := by
      rw [BitVec.getLsbD_append]; simp [hi]
    simp only [BitVec.getLsbD_extractLsb', hi, decide_true, Bool.true_and]
    simpa using this
  rw [upstream_page s h _ _ _ rfl (by omega), ha]
  simp only [watchWrite, watchCell, writeCommandCell, Config.pageBase, h0, h1]
  simp [commandWrite]
  rfl

/-- A command, tested and refused or carried out, in an open path (R188). -/
theorem upstream_command (h : PageOpen s) (value : BitVec 8) (w : CommandWrite) :
    upstream (commandWrite value w) s =
      finish (match firstRefusal value (commandSeen value w s) with
        | some c => answer c (commandSeen value w s)
        | none => carryOut value.toNat (commandSeen value w s)) :=
  upstream_commandWrite s h value w

end Sys2Proof.Machine
end

