-- ==== Sys2Proof/Tests/Slice0.lean ====
section
/-! SUPPORT. Tests on fixed values: ill-formed commands, the worked cases of the chapters, and for each statement
with hypotheses states and operands that meet them, clause by clause. -/

namespace Sys2Proof.Tests

open Sys2Proof.Machine

/-! ## A small state -/

/-- A zone of a kind, with its first page and its pages. -/
def zoneWith (k : ZoneKind) (page pages : Nat) : Zone := ⟨k, page, pages, false, 0, false⟩

/-- The GUARDED zone of the example in R167: 8 pages from 0x200000, HIGH, exponent 2. -/
def guarded : Zone := ⟨.guarded, 0x200, 8, true, 2, false⟩

/-- A complete map: the six zones one page each, and the GUARDED zone. -/
def zones : List Zone :=
  [zoneWith .intake 0x100 1, zoneWith .results 0x101 1, zoneWith .marks 0x102 1, zoneWith .layout 0x103 1,
   zoneWith .events 0x104 1, zoneWith .reports 0x105 1, guarded, zoneWith .unused 0 0]

/-- A path in MAPPED with no job queued. -/
def basePath : Path := { State.reset.path with mode := .mapped, zones := zones, jobs := [] }

/-- A part in MAPPED with every parameter at its default. -/
def base : State :=
  { State.reset with
    path := basePath
    cmd := { State.reset.cmd with paramRaw := List.replicate 128 defaultMark, paramsValid := true, mask := 0 } }

/-- A wafer record of lot run 0. -/
def wafer (p : Phase) (l : Location) : Wafer := { freshWafer 0 7 with phase := p, location := l, acc := some .zero }

/-- A state with one more wafer record. -/
def withWafer (i : Nat) (w : Wafer) (s : State) : State := { s with wafers := s.wafers.set i (some w) }

/-- Arguments A0 to A5. -/
def withArgs (l : List Word) (s : State) : State := { s with cmd := { s.cmd with args := l } }

def settings : Settings :=
  latchSettings base { pitch := ⟨26000000, 33000000⟩, origin := ⟨-143000000, -148500000⟩, nominalZ := 500, focusOffset := 20 }

/-- A lot in a state, on port 1. -/
def lot (st : LotState) : Lot :=
  { run := 0, number := 7, port := some .one, selection := 1, layoutIndex := some 2, state := st,
    settings := some settings, reportRequested := false, acc := some .zero }

def withLots (a b : Option Lot) (s : State) : State := { s with lots := ⟨a, b⟩ }

/-- A queued entry of a wafer. -/
def entry (i w : Nat) : Entry :=
  { index := i, wafer := w, defectId := 9, col := 5, row := 4, inDie := ⟨1234567, 2345678⟩, size := 100, roughClass := 3,
    priority := 1, arrival := 0, state := .queued, retries := 0, dispatched := false, result := none, visitPart := none }

/-- A visit of entry 0 of wafer 1. -/
def visit (st : VisitState) : Visit :=
  { entry := 0, wafer := 1, defectId := 9, state := st, target := ⟨0, 0⟩, moveTag := 1, zPred := 500, source := .nominal,
    arrival := none, captured := none, lockedAtStrobe := false, predictedFocus := false, timer := 0 }

/-- A state with a visit in flight, and its entry. -/
def visiting (st : VisitState) (s : State) : State :=
  { s with
    table := [{ entry 0 1 with state := st.entryState }]
    visit := { s.visit with current := some (visit st), move := if st = .moving then some (1, ⟨0, 0⟩) else none } }

/-- A state with jobs queued. -/
def withJobs (l : List Job) (s : State) : State := { s with path := { s.path with jobs := l } }

def withHandling (f : Handling → Handling) (s : State) : State := { s with handling := f s.handling }
def withGuard (f : Guard → Guard) (s : State) : State := { s with guard := f s.guard }
def withFocus (f : Focus → Focus) (s : State) : State := { s with focus := f s.focus }
def inMode (m : PathMode) (s : State) : State := { s with path := { s.path with mode := m } }

/-- A write of a whole word, alone in its burst. -/
def whole (d : Word) : WordWrite := ⟨d, 15, false⟩
def command : CommandWrite := ⟨0, 7, false⟩

/-! ## What an open path is -/

theorem base_clear : PageClear base := ⟨by decide, by decide⟩
theorem base_free : BusFree base := ⟨rfl, by decide, rfl, rfl, by decide⟩
theorem base_open : PageOpen base := ⟨base_free, base_clear⟩

/-- A state whose path is that of `base` is open. -/
theorem open_of (s : State) (h : s.path = basePath) : PageOpen s := by
  refine ⟨⟨?_, ?_, ?_, ?_, ?_⟩, ⟨?_, ?_⟩⟩
  · rw [h]; rfl
  · rw [h]; decide
  · rw [h]; rfl
  · rw [h]; rfl
  · show s.path.jobs.length < 12; rw [h]; decide
  · rw [h]; exact base_clear.zones
  · rw [h]; exact base_clear.held

/-- It takes commands, too. -/
theorem takes_of (s : State) (h : s.path = basePath) (hr : s.cmd.resetting = false) (hl : s.cmd.lotStart = none)
    (hd : s.handling.runDue = false) : TakesCommands s :=
  ⟨open_of s h, by rw [h]; rfl, hr, hl, hd⟩

/-- An open path may be TRANSPARENT. -/
theorem open_transparent : PageOpen (inMode .transparent base) :=
  ⟨⟨rfl, by decide, rfl, rfl, by decide⟩, ⟨by decide, by decide⟩⟩

/-! ## Ill-formed commands, and words -/

theorem test_unknown_values : (Instr.unknownCommand 0 command).wellFormed = true ∧
    (Instr.unknownCommand 14 command).wellFormed = true ∧ (Instr.unknownCommand 1 command).wellFormed = false ∧
    (Instr.unknownCommand 13 command).wellFormed = false := by decide

/-- A posting has the last word of a slot, below the page, and sets the post flag with its lane enabled. -/
theorem test_ill_formed_postings : (Instr.posting 7 (whole 0x80000000)).wellFormed = true ∧
    (Instr.posting 6 (whole 0x80000000)).wellFormed = false ∧ (Instr.posting 7 (whole 0x7FFFFFFF)).wellFormed = false ∧
    (Instr.posting 7 ⟨0x80000000, 7, false⟩).wellFormed = false ∧
    (Instr.posting 0x3FFC07 (whole 0x80000000)).wellFormed = false := by decide

/-- A cell with a row of its own is no UPSTREAM_WRITE; the command cell with lane 0 off is one. -/
theorem test_ill_formed_upstream_writes : (Instr.upstreamWrite 0x3FFC00 (whole 0)).wellFormed = false ∧
    (Instr.upstreamWrite 0x3FFC40 (whole 0)).wellFormed = false ∧
    (Instr.upstreamWrite 0x3FFC40 ⟨0, 14, false⟩).wellFormed = true ∧
    (Instr.upstreamWrite 0x3FFC4B (whole 0)).wellFormed = false ∧
    (Instr.upstreamWrite 0x3FFC80 (whole 0)).wellFormed = false ∧
    (Instr.upstreamWrite 0 (whole 0)).wellFormed = true := by decide

/-- A read burst has at most 8 words (R182). -/
theorem test_ill_formed_read_bursts : (Instr.causeCellRead ⟨3, 4⟩).wellFormed = true ∧
    (Instr.causeCellRead ⟨7, 0⟩).wellFormed = true ∧ (Instr.causeCellRead ⟨4, 4⟩).wellFormed = false ∧
    (Instr.causeCellRead ⟨1, 7⟩).wellFormed = false := by decide

/-- No row of the table has bits. -/
theorem test_decode_none : decodeTableWord 32 0xFFFFFFFF = none ∧ State.reset.withFetchWord 32 7 = State.reset := ⟨rfl, rfl⟩

/-! ## Worked cases of the chapters -/

/-- Chapter 3, Drift: the tie of −4.5 goes away from zero. -/
theorem test_rounding : roundDiv 240 16 = 15 ∧ roundDiv (-72) 16 = -5 ∧ roundDiv 548 10 = 55 := by decide

def primary : Mark := ⟨⟨-60000000, 0⟩, ⟨-59998200, 4100⟩⟩
def secondary : Mark := ⟨⟨60000000, 0⟩, ⟨60001950, 16220⟩⟩
def check : Mark := ⟨⟨0, 100000000⟩, ⟨-8190, 100010301⟩⟩

/-- Chapter 3, worked case: the coefficients, the image of the check mark, and the verdict. -/
theorem test_alignment : (transformOf primary secondary).a = 1073743166 ∧ (transformOf primary secondary).b = 108448 ∧
    (transformOf primary secondary).apply check.design = ⟨-8225, 100010285⟩ ∧
    (judge { Align.fresh with primary := some primary, secondary := some secondary, checks := [check] } 500).1 = .accepted := by
  decide

/-- Chapter 3: two marks 40,000,000 nm apart are too close. -/
theorem test_marks_too_close : (judge { Align.fresh with
    primary := some ⟨⟨0, 0⟩, ⟨0, 0⟩⟩, secondary := some ⟨⟨40000000, 0⟩, ⟨40000000, 0⟩⟩ } 500).1 = .marksTooClose := by
  decide

/-- Chapter 3: the target of die (5, 4) with the transform above and drift (20, −8). -/
theorem test_target : targetOf (withLots (some (lot .active)) none (withWafer 1 { wafer .reviewing .stage with
    transform := some (transformOf primary secondary), drift := ⟨20, -8⟩ } base)) (entry 0 1) =
    some ⟨-11762123, -14145376⟩ := by decide

/-- Chapter 3: the drift update from (20, −8) by the offset (60, −20). -/
theorem test_drift : driftStep 6 20 60 = 35 ∧ driftStep 6 (-8) (-20) = -13 := by decide

/-- Chapter 4, worked case: 104, 100, 101, 105, 103, 102. -/
theorem test_review_order : (queuedList { base with table :=
    [{ entry 100 1 with priority := 1, row := 2, col := 4, inDie := ⟨0, 1000000⟩, arrival := 0 },
     { entry 101 1 with priority := 1, row := 2, col := 7, inDie := ⟨0, 500000⟩, arrival := 1 },
     { entry 102 1 with priority := 1, row := 3, col := 4, inDie := ⟨0, 0⟩, arrival := 2 },
     { entry 103 1 with priority := 1, row := 3, col := 9, inDie := ⟨0, 0⟩, arrival := 3 },
     { entry 104 1 with priority := 2, row := 10, col := 0, inDie := ⟨0, 0⟩, arrival := 4 },
     { entry 105 1 with priority := 1, row := 2, col := 7, inDie := ⟨0, 500000⟩, arrival := 5 }] } 1).map (·.index) =
    [104, 100, 101, 105, 103, 102] := by decide

/-- Chapter 6, worked case: a weighted prediction, and the mean of the map far away. -/
theorem test_prediction : predict (withFocus (fun f => { f with map :=
      [⟨⟨1000000, 2000000⟩, 10120⟩, ⟨⟨4000000, 2000000⟩, 10180⟩, ⟨⟨1000000, 6000000⟩, 10090⟩] }) base) 1
      ⟨2000000, 3000000⟩ = (10131, .nearest) ∧
    predict (withFocus (fun f => { f with map :=
      [⟨⟨1000000, 2000000⟩, 10120⟩, ⟨⟨4000000, 2000000⟩, 10180⟩, ⟨⟨1000000, 6000000⟩, 10090⟩] }) base) 1
      ⟨40000000, 3000000⟩ = (10130, .mapMean) := by decide

/-- Chapter 8, worked case: the ring of one page, producer 1,000, consumer 400, a report of 29 words. -/
theorem test_report_ring :
    let s := { base with report := { queue := [⟨.wafer 26, List.replicate 29 0⟩], producer := 1000, wrap := 6, consumer := 400 } }
    ringFree s 1020 = 419 ∧ ringNeed s 1020 29 = 49 ∧
    (reportJob s (zoneWith .reports 0x105 1) ⟨.wafer 26, List.replicate 29 0⟩).kind =
      .report ⟨0, 29, 7, some (.wafer 26)⟩ :=
  ⟨by decide, by decide, by simp [reportJob, ringWords, ringRoom, zoneWith]⟩

/-- Chapter 9, example of R167: the top quarter of 8 pages from 0x200000. -/
theorem test_guarded_zone : guarded.guards 0x205FFF = false ∧ guarded.guards 0x206000 = true ∧
    guarded.guards 0x207FFF = true ∧ guarded.guards 0x208000 = false := by decide

/-- R201: defaults, bounds and a signed range. -/
theorem test_parameters : inForce 0 defaultMark = 20000 ∧ inForce 0 999 = 1000 ∧ inForce 16 5 = 0 ∧
    inForce 16 0xFFFFFFFF = -1 ∧ isClamped 0 120001 = true ∧ isClamped 0 120000 = false ∧ paramRange 22 = none := by
  decide

/-- Chapter 10, worked case: a full ring drops the event and sets the lost flag; a cause-cell read then returns FAULT
and leaves REPORT pending and masked, with the line deasserted. -/
theorem test_dropped_event :
    let s := { base with cmd := { base.cmd with mask := 16, evNext := 120, evConsumer := 121 } }
    let t := postEvent .reportWritten (some 1) 1 0 (postEvent .stageFault (some 1) 1 0 s)
    t.cmd.evLost = true ∧ t.cmd.evNext = 120 ∧ attentionLine t = true ∧ (readCauseCell t).cmd.causes = 16 ∧
    attentionLine (readCauseCell t) = false ∧ causeWord t = 0x00101101 := by decide

/-- R189, R190: value 0 during a LOT_START shows UNKNOWN_COMMAND without the in-progress flag; a LOT_HOLD after it shows
OVERRUN with the flag. -/
theorem test_unknown_during_lot_start :
    let s := { base with cmd := { base.cmd with lotStart := some ⟨7, 1, 1, 2⟩, count := 1, echoed := 1 } }
    commandStatusWord s = 0x01010100 ∧ commandStatusWord (takeCommand 0 s) = 0x0200000D ∧
    commandStatusWord (takeCommand 2 (takeCommand 0 s)) = 0x0301020F := by decide

/-! ## States that meet the statements' hypotheses: the part, commands -/

theorem base_good : GoodState base :=
  ⟨by show base.path.jobs.length ≤ 16; decide, rfl, rfl,
   ⟨by decide, fun i => by simp [base, State.reset, entriesHeld], by decide, by decide⟩, base_clear, ⟨rfl, rfl⟩, rfl⟩

theorem test_meets_StepKeepsGoodState : GoodState base ∧ step base = .next (idleStep base) := ⟨base_good, rfl⟩

def hard : State := withGuard (fun g => { g with state := .hardTripped, inRun := 3 }) base

theorem test_meets_HardTripIsLatched : hard.guard.state = .hardTripped ∧ Instr.millisecondTick.wellFormed = true ∧
    (∃ t, exec .millisecondTick hard = .next t) ∧ hard.path.upWait = [] ∧ (∃ t, exec .burstResume hard = .next t) :=
  ⟨rfl, rfl, ⟨_, rfl⟩, rfl, ⟨_, rfl⟩⟩

/-- A state in which a planner run is due: wafer 1, wafer 2, and port 1 open or not. -/
def planning (w1 w2 : Option Wafer) (opened : Bool) : State :=
  withHandling (fun h => { h with runDue := true, port1 := { h.port1 with debounced := ⟨true, opened⟩ } })
    (withLots (some (lot .active)) none { base with wafers := (base.wafers.set 1 w1).set 2 w2 })

/-- Runs that are not due, or not allowed; a return held back on an arm; no order; and an order of each of the ten rules. -/
theorem test_meets_FinishFrame : base.handling.runDue = false ∧ (setHandling .busy base).handling.state = .busy ∧
    (setHandling .halted base).handling.state = .halted ∧ (planning none none true).handling.state = .idle ∧
    (planning none none true).cmd.resetting = false ∧ choosePlan (planning none none true) = none ∧
    choosePlan (planning (some (wafer .reviewDone .armU)) none false) = none ∧
    returnHeldBack (planning (some (wafer .reviewDone .armU)) none false) = true := by decide

theorem test_planner_rules :
    [choosePlan (planning (some (wafer .reviewDone .armL)) (some (wafer .reviewDone .armU)) true),
     choosePlan (planning (some (wafer .reviewDone .stage)) none false),
     choosePlan (planning (some (wafer .prealigned .ll)) (some (wafer .toPA .armL)) false),
     choosePlan (planning (some (wafer .reviewDone .ll)) (some (wafer .toPA .armU)) false),
     choosePlan (planning (some (wafer .reviewDone .pa)) none false),
     choosePlan (planning (some (wafer .prealigned .armL)) (some (wafer .prealigned .armU)) false),
     choosePlan (planning (some (wafer .prealigned .pa)) (some (wafer .reviewing .stage)) false),
     choosePlan (planning (some (wafer .toPA .armL)) (some (wafer .reviewing .stage)) false),
     choosePlan (planning (some (wafer .waiting .slot)) (some (wafer .waiting .slot)) true),
     choosePlan (planning (some (wafer .reviewDone .stage)) (some (wafer .prealigned .ll)) false)] =
    [some ⟨.place, 2, .armU, .slot, some .u⟩, some ⟨.transfer, 1, .stage, .ll, none⟩,
     some ⟨.transfer, 1, .ll, .stage, none⟩, some ⟨.pick, 1, .ll, .armL, some .l⟩, some ⟨.pick, 1, .pa, .armU, some .u⟩,
     some ⟨.place, 2, .armU, .ll, some .u⟩, some ⟨.pick, 1, .pa, .armL, some .l⟩, some ⟨.place, 1, .armL, .pa, some .l⟩,
     some ⟨.pick, 1, .slot, .armL, some .l⟩, some ⟨.pick, 2, .ll, .armL, some .l⟩] := by decide

theorem test_meets_WriteChangesItsLanes : Memory.wf [(4, 1)] = true ∧ (0 < 4 ∧ 3 < 4) ∧ (3 < 4 ∨ 4 + 4 ≤ 3) := by decide

/-- No zone; a zone with room; a full ring; a full job queue. -/
theorem test_meets_PostEvent : zoneOf State.reset .events = none ∧ zoneOf base .events = some (zoneWith .events 0x104 1) ∧
    (1 ≠ base.cmd.evConsumer ∧ base.path.jobs.length < 16) ∧ (254 + 1) % (256 * 1 - 1) = base.cmd.evConsumer := by decide

/-- A path on which an upstream burst has come so far. -/
def burst (b : UpBurst) (s : State) : State := { s with path := { s.path with upBurst := b } }

/-- A path with `n` jobs queued. -/
def deep (n : Nat) : State := withJobs (List.replicate n ⟨.event, [], []⟩) base

/-- An open path and one that waits; a depth at which the jobs go first, and one below it; bursts with no word of memory
before the cell, with one, and with words after it; a category pending and not masked, and the pages' words. -/
theorem test_meets_CauseCellRead : base.path.upWait = [] ∧ base.path.mode ≠ .loading ∧ base.path.draining = false ∧
    NoRunDue base ∧ depth base < 12 ∧ 12 ≤ depth (deep 12) ∧ (deep 12).path.upBurst ≠ .carried ∧
    (inMode .loading base).path.mode = .loading ∧ (Instr.causeCellRead ⟨2, 0⟩).wellFormed = true ∧
    (Instr.causeCellRead ⟨2, 1⟩).wellFormed = true ∧ (Instr.causeCellRead ⟨3, 0⟩).wellFormed = true ∧
    base.cmd.causes.getLsbD 4 = false ∧ base.cmd.windowSel.getLsbD 8 = false ∧ base.path.mode = .mapped ∧
    (inMode .transparent base).path.mode ≠ .mapped :=
  ⟨rfl, by decide, rfl, rfl, by decide, by decide, by decide, rfl, by decide, by decide, by decide, by decide, by decide, rfl,
   by decide⟩

/-- R182, R185: from a depth of 12 a burst of the two words before the cell and one after it waits at its last word. -/
theorem test_read_burst_yields :
    let t := upstreamBurst (causeBurst ⟨2, 1⟩) (deep 12)
    t.path.upWait = [⟨0x3FFC4B, .read, false⟩] ∧
    t.path.answered = [causeWord (deep 12), statusWord (deep 12), commandStatusWord base] := by decide

/-- R113, R187: word 0 of the wafer window for a wafer on the stage, and words 0 and 1 of the visit window. -/
theorem test_windows :
    let s := { visiting .ready (withWafer 1 (wafer .reviewing .stage) base) with
      cmd := { base.cmd with windowSel := 1 } }
    upstreamRead s 0xFFF140 = 0x00650101 ∧ upstreamRead s 0xFFF148 = 0x00000201 ∧
    upstreamRead s 0xFFF180 = 0x00000033 ∧ upstreamRead s 0xFFF184 = 0x00010000 := by decide

def resetting (s : State) : State := { s with cmd := { s.cmd with resetting := true } }
def starting (s : State) : State := { s with cmd := { s.cmd with lotStart := some ⟨7, 1, 1, 2⟩ } }

/-- RESETTING; the values 0 and 14; a TRANSPARENT path with values 1 and 11; a LOT_START in progress with 1 and 12. -/
theorem test_meets_CommandTests : PageOpen (resetting base) ∧ NoRunDue (resetting base) ∧
    (resetting base).cmd.resetting = true ∧ PageOpen base ∧ NoRunDue base ∧ base.cmd.resetting = false ∧
    ((0 : BitVec 8).toNat = 0 ∧ 13 < (14 : BitVec 8).toNat) ∧
    PageOpen (inMode .transparent base) ∧ (1 ≤ (1 : BitVec 8).toNat ∧ (11 : BitVec 8).toNat ≤ 11) ∧
    PageOpen (starting base) ∧ (starting base).cmd.lotStart.isSome = true ∧ (12 : BitVec 8).toNat ≤ 12 :=
  ⟨open_of _ rfl, rfl, rfl, base_open, rfl, rfl, by decide, open_transparent, by decide, open_of _ rfl, rfl, by decide⟩

def partialMap : State := { base with path := { base.path with zones := [guarded] } }
def pendingReload : State := { base with path := { base.path with reloadPending := true } }

/-- An incomplete map; a pending reload; a complete one; and a LOT_START that waits for a queue place. -/
theorem test_meets_LotStart : TakesCommands partialMap ∧ mapComplete partialMap = false ∧
    TakesCommands pendingReload ∧ pendingReload.path.reloadPending = true ∧
    TakesCommands base ∧ mapComplete base = true ∧ base.path.reloadPending = false ∧
    zoneOf base .layout = some (zoneWith .layout 0x103 1) ∧
    (let s := { starting base with path := { base.path with waiters := [.layout] } }
     NoRunDue s ∧ s.cmd.lotStart = some ⟨7, 1, 1, 2⟩ ∧ s.path.waiters.head? = some .layout ∧
       s.path.jobs.length < 16 ∧ zoneOf s .layout = some (zoneWith .layout 0x103 1)) ∧
    Producer.layout ∉ base.path.waiters := by
  refine ⟨⟨⟨⟨rfl, by decide, rfl, rfl, by decide⟩, ⟨by decide, by decide⟩⟩, rfl, rfl, rfl, rfl⟩, by decide,
    ⟨⟨⟨rfl, by decide, rfl, rfl, by decide⟩, ⟨by decide, by decide⟩⟩, rfl, rfl, rfl, rfl⟩, rfl,
    takes_of _ rfl rfl rfl rfl, by decide, rfl, by decide, ⟨rfl, rfl, rfl, by decide, by decide⟩, by decide⟩

/-- The layout read of a LOT_START on port 1, with its words read. -/
def layoutRead (ws : List Word) : State :=
  withHandling (fun h => { h with port1 := ⟨⟨true, true⟩, ⟨true, true⟩, none, some 1⟩ })
    (withJobs [⟨.layout, [], ws⟩] (starting base))

/-- A LOT_START that a soft reset has abandoned. -/
def abandoned (s : State) : State := { s with cmd := { s.cmd with lotStart := none } }

def goodLayout : List Word := [26000000, 33000000, wordOfInt (-143000000), wordOfInt (-148500000), 500, 20]
def boundLayout : List Word := [1000000, 60000000, wordOfInt (-160000000), 160000000, 0, 0]

/-- The common hypotheses, and those of each clause: a pending reload, a full queue, a port in use, a port not ready, a
layout out of range, and an acceptance (bounds of the ranges included). -/
theorem test_meets_LayoutReadComplete :
    headKind (layoutRead goodLayout) = some .layout ∧ (layoutRead goodLayout).cmd.lotStart = some ⟨7, 1, 1, 2⟩ ∧
    (layoutRead goodLayout).handling.runDue = false ∧
    (layoutRead goodLayout).path.draining = false ∧ (layoutRead goodLayout).path.reloadPending = false ∧
    (let s := withLots (some (lot .active)) (some (lot .pending)) (layoutRead goodLayout)
     s.lots.active.isSome = true ∧ s.lots.second.isSome = true) ∧
    (let s := withLots (some (lot .active)) none (layoutRead goodLayout)
     (∃ k ∈ lotList s, usesPort s k .one = true) ∧ s.lots.second.isSome = false) ∧
    (layoutRead goodLayout).lots.active.isSome = false ∧
    (portState (starting base) .one).debounced ≠ ⟨true, true⟩ ∧
    ((portState (layoutRead goodLayout) .one).debounced = ⟨true, true⟩ ∧
      (portState (layoutRead goodLayout) .one).slotMap = some 1) ∧
    (Layout.ofWords (headWords (layoutRead [999999]))).pitch.x = 999999 ∧
    Layout.ofWords (headWords (layoutRead boundLayout)) = ⟨⟨1000000, 60000000⟩, ⟨-160000000, 160000000⟩, 0, 0⟩ ∧
    (let s := abandoned (layoutRead goodLayout)
     headKind s = some .layout ∧ s.cmd.lotStart = none ∧ s.handling.runDue = false) := by
  decide

/-- A wafer of the other port at index 25; on port 1 slot 1 not selected, slot 25 absent, slot 25 present. -/
theorem test_meets_LotIsMade : TableOfWafers base ∧ homePort 25 ≠ .one ∧ homePort 0 = .one ∧ homePort 24 = .one ∧
    (2 : BitVec 25).getLsbD 0 = false ∧ (0x1000000 : BitVec 25).getLsbD 24 = true ∧
    (withLots none none base).lots.active = none ∧ (withLots (some (lot .active)) none base).lots.active ≠ none :=
  ⟨rfl, by decide, by decide, by decide, by decide, by decide, rfl, by decide⟩

theorem test_meets_lot_commands : TakesCommands base ∧ base.lots = ⟨none, none⟩ ∧
    (∀ a b, TakesCommands (withLots a b base)) ∧
    (withLots (some (lot .held)) none base).lots ≠ ⟨none, none⟩ ∧ (lot .held).state ≠ .active ∧
    (lot .active).state = .active ∧ (lot .active).state ≠ .held ∧ (lot .pending).state = .pending ∧
    base.cmd.args.getD 0 0 ≠ 1 ∧ (withArgs [1] base).cmd.args.getD 0 0 = 1 ∧ TakesCommands (withArgs [1] base) :=
  ⟨takes_of _ rfl rfl rfl rfl, rfl, fun _ _ => takes_of _ rfl rfl rfl rfl, by decide, by decide, rfl, by decide, rfl,
   by decide, rfl, takes_of _ rfl rfl rfl rfl⟩

def watch (hold : Bool) : Watch := ⟨3, 5, 1, hold, true⟩
def lotAcc : LotAcc := { totals := List.replicate 32 65535, saturated := false, runs := [0, 0, 25, 0], flags := [false, false, false, false] }
def watchedSettings : Settings := { settings with watches := [watch true, watch false, watch false, watch false] }
def fives : WaferAcc := { WaferAcc.zero with classCounts := List.replicate 32 5 }

/-- A lot whose report of wafer 1 fires two watches, one with action HOLD. -/
def firing (st : LotState) : State :=
  withLots (some { lot st with settings := some watchedSettings, acc := some lotAcc }) none
    (withWafer 1 { wafer .reviewDone .ll with outcome := some .complete, acc := some fives } base)

/-- A lot that may be held and one that may not; a run counted, at the threshold and below it, and not counted; a run at 25
that does not rise, and one that comes to K; lists of full length and a total that is cut; accumulators, none, RESETTING,
and a hold that may race a planner run. -/
theorem test_meets_LotHold :
    lotOfRun (withLots (some (lot .pending)) none base) 0 = some (lot .pending) ∧ (lot .closing).state ≠ .active ∧
    (watchRun (some .complete) fives.classCounts (watch true) 0, watchRun (some .aborted) fives.classCounts (watch true) 25,
      watchRun (some .complete) (List.replicate 32 4) (watch true) 7, watchRun (some .cut) fives.classCounts (watch true) 7) =
      (1, 25, 0, 7) ∧
    watchFires (some .complete) fives.classCounts (watch true) 0 = true ∧
    watchFires (some .complete) fives.classCounts (watch true) 25 = false ∧
    fives.classCounts.length = 32 ∧ lotAcc.totals.length = 32 ∧ watchedSettings.watches.length = 4 ∧
    lotAcc.runs.length = 4 ∧ lotAcc.flags.length = 4 ∧ 65535 < lotAcc.totals.getD 31 0 + fives.classCounts.getD 31 0 ∧
    waferAt (firing .active) 1 = some { wafer .reviewDone .ll with outcome := some .complete, acc := some fives } ∧
    ((lotOfRun (firing .active) 0).bind (·.settings)) = some watchedSettings ∧
    (firing .active).handling.state = .idle ∧ (watch true).hold = true ∧ (wafer .toPA .armL).acc ≠ none := by decide

/-- R163, log 37: both watches that fire post EXCURSION, and the one with action HOLD holds the lot. -/
theorem test_two_watches_fire :
    let t := fireWatches 0 1 (some .complete) fives.classCounts 1 [watch true, watch false] [0, 0] (firing .active)
    t.lots.active.map (·.state) = some .held ∧ t.path.jobs.length = 3 := by decide

/-- A wafer at index 1 in any phase and place, with A0 naming it. -/
def named (w : Wafer) : State := withArgs [1, 1] (withWafer 1 w base)

theorem named_takes (w : Wafer) : TakesCommands (named w) := takes_of _ rfl rfl rfl rfl
theorem named_wafer (w : Wafer) : waferAt (named w) 1 = some w := rfl
theorem named_index (w : Wafer) : ((named w).cmd.args.getD 0 0).toNat = 1 := rfl

/-- A wafer in any phase and place; one that is home and one that is not; an entry of the table; a lot with a wafer open,
with none open, and one that asks for its report, with accumulators and without. -/
theorem test_meets_LotAbort_ReviewEnds : (∀ w, waferAt (named w) 1 = some w) ∧
    (enterReviewDone 1 .cut (named (wafer .toPA .armL))).mem = (named (wafer .toPA .armL)).mem ∧
    (wafer .reviewDone .slot).location = .slot ∧ (named (wafer .reviewDone .slot)).handling.order = none ∧
    (wafer .reviewDone .ll).location ≠ .slot ∧ entryAt (visiting .ready base) 0 = some { entry 0 1 with state := .ready } ∧
    lotOfRun (withLots (some (lot .active)) none (named (wafer .toPA .armL))) 0 = some (lot .active) ∧
    allOfLot (withLots (some (lot .active)) none (named (wafer .toPA .armL))) 0 (fun w => !w.phase.isOpen) = false ∧
    allOfLot (withLots (some (lot .active)) none (named (wafer .reviewDone .armL))) 0 (fun w => !w.phase.isOpen) = true ∧
    readyForReport (withLots (some (lot .closing)) none (named { wafer .returned .slot with acc := none })) 0 = true ∧
    (lot .closing).reportRequested = false ∧ (lot .closing).acc ≠ none ∧
    ({ lot .closing with acc := none, settings := none } : Lot).settings = none :=
  ⟨fun _ => rfl, rfl, rfl, rfl, by decide, rfl, rfl, by decide, by decide, by decide, rfl, by decide, rfl⟩

/-- A0 beyond the wafers, and no wafer in review; then a wafer in review: aborting, without a visit, GRABBED, MOVING. -/
theorem test_meets_WaferAbort : TakesCommands (withArgs [50] base) ∧ 50 ≤ ((withArgs [50] base).cmd.args.getD 0 0).toNat ∧
    (wafer .prealigned .ll).phase ≠ .aligning ∧ TakesCommands (named (wafer .reviewing .stage)) ∧
    ((named (wafer .reviewing .stage)).cmd.args.getD 0 0).toNat < 50 ∧
    waferAt (named (wafer .aligning .stage)) 1 = some (wafer .aligning .stage) ∧
    (wafer .reviewing .stage).aborting = false ∧ (named (wafer .reviewing .stage)).visit.current = none ∧
    TakesCommands (visiting .grabbed (named (wafer .reviewing .stage))) ∧
    (visiting .grabbed (named (wafer .reviewing .stage))).visit.current = some (visit .grabbed) ∧
    (visit .grabbed).wafer = 1 ∧ TakesCommands (visiting .moving (named (wafer .reviewing .stage))) ∧
    (visit .moving).state ≠ .grabbed :=
  ⟨takes_of _ rfl rfl rfl rfl, by decide, by decide, named_takes _, by decide, rfl, rfl, rfl,
   takes_of _ rfl rfl rfl rfl, rfl, rfl, takes_of _ rfl rfl rfl rfl, by decide⟩

theorem test_meets_ReviewEndCommand : TakesCommands (named (wafer .skipped .slot)) ∧ (wafer .skipped .slot).phase = .skipped ∧
    TakesCommands (named { wafer .waiting .slot with reviewEnd := true }) ∧ (wafer .waiting .slot).phase ≠ .reviewing ∧
    TakesCommands (named (wafer .reviewing .stage)) ∧ (wafer .reviewing .stage).reviewEnd = false :=
  ⟨named_takes _, rfl, named_takes _, by decide, named_takes _, rfl⟩

theorem test_meets_Realign : TakesCommands (named (wafer .aligning .stage)) ∧ (wafer .aligning .stage).phase ≠ .reviewing ∧
    TakesCommands (named { wafer .reviewing .stage with align := { Align.fresh with state := .collecting } }) ∧
    TakesCommands (named (wafer .reviewing .stage)) ∧ (wafer .reviewing .stage).align.state = .none ∧
    (wafer .reviewing .stage).aborting = false :=
  ⟨named_takes _, by decide, named_takes _, named_takes _, rfl, rfl⟩

def halted (w : Wafer) (args : List Word) : State := withArgs args (setHandling .halted (withWafer 1 w base))

/-- Not halted; no UNKNOWN wafer named; a place that is taken, and a code that names none; a free place. -/
theorem test_meets_RecoverWafer : TakesCommands (named (wafer .toPA .unknown)) ∧
    (named (wafer .toPA .unknown)).handling.state ≠ .halted ∧
    TakesCommands (halted (wafer .toPA .armL) [1, 2]) ∧ (wafer .toPA .armL).location ≠ .unknown ∧
    TakesCommands (withWafer 2 (wafer .toPA .armL) (halted (wafer .toPA .unknown) [1, 2])) ∧
    (waferAt (withWafer 2 (wafer .toPA .armL) (halted (wafer .toPA .unknown) [1, 2])) 2).map (·.location) = some .armL ∧
    [Location.slot, .armU, .armL, .pa, .ll, .stage][6]? = none ∧
    TakesCommands (halted (wafer .toPA .unknown) [1, 0]) ∧ (halted (wafer .toPA .unknown) [1, 0]).handling.state = .halted ∧
    waferAt (halted (wafer .toPA .unknown) [1, 0]) 1 = some (wafer .toPA .unknown) ∧
    [Location.slot, .armU, .armL, .pa, .ll, .stage][((halted (wafer .toPA .unknown) [1, 5]).cmd.args.getD 1 0).toNat]? = some .stage :=
  ⟨named_takes _, by decide, takes_of _ rfl rfl rfl rfl, by decide, takes_of _ rfl rfl rfl rfl, by decide, rfl,
   takes_of _ rfl rfl rfl rfl, rfl, rfl, by decide⟩

/-! ## States that meet the statements' hypotheses: links and timers -/

/-- An order of wafer 1 in flight. -/
def order (k : OrderKind) (src dst : Location) (retry : Bool) : Order := ⟨1, k, 1, src, dst, some .l, retry, 0⟩
def ordered (o : Order) (w : Wafer) (s : State) : State :=
  withHandling (fun h => { h with order := some o, state := .busy, tag := o.tag }) (withWafer 1 w s)

theorem test_meets_WaferMoves : waferAt (withWafer 1 (wafer .reviewDone .stage) base) 1 = some (wafer .reviewDone .stage) ∧
    (wafer .toPA .armL).location ≠ .stage ∧ (wafer .reviewDone .stage).location = .stage ∧ Location.ll ≠ .stage :=
  ⟨rfl, by decide, rfl, by decide⟩

/-- An order for each destination, and a wafer that is TO_PA and one that is not. -/
theorem test_meets_DoneOk : (∀ o w, (ordered o w base).handling.order = some o) ∧
    (∀ o w, (ordered o w base).handling.removals = []) ∧ (∀ k a b r w, waferAt (ordered (order k a b r) w base) 1 = some w) ∧
    (order .pick .slot .armL false).dst = .armL ∧ (order .place .armL .pa false).dst = .pa ∧
    (wafer .toPA .armL).phase = .toPA ∧ (wafer .reviewDone .armL).phase ≠ .toPA ∧
    (order .place .armU .slot false).dst = .slot ∧ (order .transfer .ll .stage false).dst = .stage :=
  ⟨fun _ _ => rfl, fun _ _ => rfl, fun _ _ _ _ _ => rfl, rfl, rfl, rfl, by decide, rfl, rfl⟩

theorem test_meets_DoneFailed : (∀ o w, NoRunDue (ordered o w base) ∧ (ordered o w base).handling.removals = []) ∧ (order .place .armL .pa true).retry = true ∧
    (order .pick .slot .armL false).retry = false ∧ (wafer .toPA .slot).phase ≠ .reviewDone ∧
    (wafer .reviewDone .slot).phase = .reviewDone ∧ (ordered (order .pick .slot .armL false) (wafer .toPA .slot) base).cmd.resetting = false :=
  ⟨fun _ _ => ⟨rfl, rfl⟩, rfl, rfl, by decide, rfl, rfl⟩

theorem test_meets_OrderTimerExpiry : (order .pick .slot .armL false).timer = 0 ∧ base.handling.order = none ∧
    ({ order .pick .slot .armL false with timer := 1 } : Order).timer ≠ 0 ∧ (order .pick .slot .armL false).tag ≠ 2 ∧
    (withHandling (fun h => { h with removals := [(0, .one)] })
      (ordered (order .pick .slot .armL false) (wafer .toPA .slot) base)).handling.removals ≠ [] ∧
    (order .pick .slot .armL false).wafer < 50 := by decide

def prealigning (t : Nat) : State := withHandling (fun h => { h with prealign := some (1, t) }) (withWafer 1 (wafer .prealigning .pa) base)

theorem test_meets_PrealignEnds : NoRunDue (prealigning 0) ∧ (prealigning 0).handling.prealign = some ((1 : BitVec 8).toNat, 0) ∧
    waferAt (prealigning 0) 1 = some (wafer .prealigning .pa) ∧ base.handling.prealign = none ∧
    (1 : Nat) ≠ (2 : BitVec 8).toNat ∧ (prealigning 5).handling.prealign = some (1, 5) := ⟨rfl, rfl, rfl, rfl, by decide, rfl⟩

def portOf (p : PortState) : State := withHandling (fun h => { h with port1 := p }) base

/-- A repeated pair, a new one, and one that gives the debounced pair back; a port open and one not. -/
theorem test_meets_PortMessages : NoRunDue base ∧ (portState base .one).raw = ⟨false, false && true⟩ ∧
    (portState base .one).raw ≠ ⟨true, true⟩ ∧
    (portState (portOf ⟨⟨true, false⟩, ⟨true, true⟩, some 3, none⟩) .one).debounced.opened = true ∧
    (portState base .one).debounced.opened = false := ⟨rfl, rfl, by decide, rfl, rfl⟩

/-- The timer run out with the carrier gone, with the port opening, and not run out; a lot on the port and none. -/
theorem test_meets_DebounceTimerExpiry : NoRunDue base ∧
    (portState (portOf ⟨⟨false, false⟩, ⟨true, true⟩, some 0, some 1⟩) .one).timer = some 0 ∧
    (portState (portOf ⟨⟨true, true⟩, ⟨true, false⟩, some 0, none⟩) .one).timer = some 0 ∧
    (portState base .one).timer ≠ some 0 ∧
    lotOnPort (withLots (some (lot .active)) none base) .one = some (lot .active) ∧ lotOnPort base .one = none :=
  ⟨rfl, rfl, rfl, by decide, rfl, rfl⟩

def removed (run : Nat) (o : Order) (w : Wafer) : State :=
  withHandling (fun h => { h with removals := [(run, .one)] }) (ordered o w base)

/-- A lot on the port and none; an order in flight with a removal of the wafer's lot, and of another lot. -/
theorem test_meets_CarrierRemoval : lotOnPort base .one = none ∧
    lotOnPort (withLots (some (lot .active)) none base) .one = some (lot .active) ∧
    (removed 0 (order .place .armL .ll false) (wafer .prealigned .armL)).handling.removals = (0, .one) :: [] ∧
    (removed 0 (order .place .armL .ll false) (wafer .prealigned .armL)).handling.order = some (order .place .armL .ll false) ∧
    waferAt (removed 0 (order .place .armL .ll false) (wafer .prealigned .armL)) 1 = some (wafer .prealigned .armL) ∧
    (∃ r ∈ (removed 0 (order .place .armL .ll false) (wafer .prealigned .armL)).handling.removals, r.1 = (wafer .prealigned .armL).run) ∧
    (¬ ∃ r ∈ (removed 4 (order .place .armL .ll false) (wafer .prealigned .armL)).handling.removals, r.1 = (wafer .prealigned .armL).run) ∧
    anyUnknown (removed 4 (order .place .armL .ll false) (wafer .prealigned .armL)) = false ∧
    anyUnknown (withWafer 2 (wafer .toPA .unknown) (removed 4 (order .place .armL .ll false) (wafer .prealigned .armL))) = true :=
  ⟨rfl, rfl, rfl, rfl, rfl, by decide, by decide, by decide, by decide⟩

/-- With a removal waiting: an order to the prealigner, with a wafer TO_PA and one that is not, to the slot and to the
stage; a second failure; and a first one with the wafer in its slot. -/
theorem test_meets_CarrierRemoval_ends :
    (∀ r o w, NoRunDue (removed r o w) ∧ (removed r o w).handling.removals = (r, .one) :: [] ∧
      (removed r o w).handling.order = some o) ∧ (order .place .armL .pa false).wafer < 50 ∧
    (order .place .armL .pa false).dst = .pa ∧ (wafer .toPA .armL).phase = .toPA ∧ (wafer .reviewDone .armL).phase ≠ .toPA ∧
    (order .place .armL .slot false).dst = .slot ∧ (order .transfer .ll .stage false).dst = .stage ∧
    (order .pick .slot .armL true).retry = true ∧ (order .pick .slot .armL false).retry = false ∧
    (wafer .toPA .slot).location = .slot ∧ (removed 0 (order .pick .pa .armL false) (wafer .reviewDone .pa)).cmd.resetting = false ∧
    (resetting (removed 0 (order .pick .pa .armL false) (wafer .reviewDone .pa))).cmd.resetting = true :=
  ⟨fun _ _ _ => ⟨rfl, rfl, rfl⟩, by decide, rfl, rfl, by decide, rfl, rfl, rfl, rfl, rfl, rfl, rfl⟩

/-- R47: while RESETTING, a first NOT_PICKED on which a removal waits leaves its wafer in the prealigner and posts nothing,
and the completion of the soft reset clears the removal; outside RESETTING the wafer is UNKNOWN (R45). -/
theorem test_removal_while_resetting :
    let s := removed 0 (order .pick .pa .armL false) (wafer .reviewDone .pa)
    let t := takeDone 1 .notPicked (resetting s)
    (waferAt t 1).map (·.location) = some .pa ∧ t.handling.order = none ∧ t.handling.state = .idle ∧ t.cmd.causes = 0 ∧
    t.handling.removals = [(0, .one)] ∧ (settleHandling t).handling.removals = [] ∧
    (waferAt (takeDone 1 .notPicked s) 1).map (·.location) = some .unknown := by decide

/-- R45: the removed lot's wafer, set down in the prealigner, is UNKNOWN, and handling is HALTED. -/
theorem test_removal_at_prealigner :
    let t := takeDone 1 .ok (removed 0 (order .place .armL .pa false) (wafer .toPA .armL))
    (waferAt t 1).map (·.location) = some .unknown ∧ t.handling.state = .halted ∧ t.handling.removals = [] := by decide

/-! ## Alignment and the revisit table -/

theorem test_meets_TransformCoefficients : (⟨60000000, 0⟩ : Point) ≠ ⟨0, 0⟩ ∧
    (⟨60000000 - 0, 0 - 0⟩ : Point) = ⟨61000000 - 1000000, 5 - 5⟩ := by decide

/-- No secondary mark; marks too close, at 49,999,999 nm; out of range; a check that fails and one that passes. -/
theorem test_meets_VerdictTests : Align.fresh.secondary = none ∧ (49999999 * 49999999 : Int) < 2500000000000000 ∧
    ¬ (50000000 * 50000000 : Int) < 2500000000000000 ∧
    ¬ (transformOf ⟨⟨0, 0⟩, ⟨0, 0⟩⟩ ⟨⟨50000000, 0⟩, ⟨0, 50000000⟩⟩).a - 1073741824 ≥ -1073742 ∧
    checkPasses (transformOf primary secondary) 34 check = false ∧
    checkPasses (transformOf primary secondary) 35 check = true := by decide

def aligning (al : Align) : Wafer := { wafer .aligning .stage with align := al }
def full : Align := { Align.fresh with state := .collecting, primary := some primary, secondary := some secondary }

/-- An accepted attempt; a refused one with marks to spare, and with two attempts used. -/
theorem test_meets_VerdictTakesEffect : waferAt (withWafer 1 (aligning full) base) 1 = some (aligning full) ∧
    judge full (param base 3) = (.accepted, some (transformOf primary secondary)) ∧
    judge { Align.fresh with used := 2 } (param base 3) = (.incomplete, none) ∧ Align.fresh.used < 2 ∧
    (aligning { Align.fresh with used := 2 }).phase = .aligning := ⟨rfl, by decide, rfl, by decide, rfl⟩

/-- A FETCH at the head of the queue, with its words read. -/
def fetched (k : ZoneKind) (last : Bool) (ws : List Word) (s : State) : State :=
  withJobs [⟨.fetch 0x100000 k 3 last, [], ws⟩] s

/-- The common hypotheses, and each clause: RESETTING; a bad role; no attempt; a second PRIMARY and a waiting attempt; a
mark that joins. -/
theorem test_meets_MarkRecordAnswered : fetchedSlot (fetched .marks true [1, 0, 0, 0, 0] base) .marks = some (0x100000, 3, true) ∧
    NoRunDue (fetched .marks true [1] base) ∧ (resetting (fetched .marks true [1] base)).cmd.resetting = true ∧
    (MarkRecord.ofWords [0x301]).role = 3 ∧ (MarkRecord.ofWords [50]).wafer = 50 ∧
    (MarkRecord.ofWords [0x231]).wafer = 49 ∧ (MarkRecord.ofWords [0x231]).role = 2 ∧
    (waferAt (fetched .marks true [1] (withWafer 1 (wafer .prealigned .ll) base)) 1).map (·.align.state) = some .none ∧
    full.primary ≠ none ∧ (waferAt (fetched .marks true [0x201] (withWafer 1 (aligning full) base)) 1).map (·.align.checks) = some [] :=
  ⟨rfl, rfl, rfl, by decide, by decide, by decide, by decide, rfl, by decide, rfl⟩

/-- Not found; offsets at 20,000 and at 20,001 nm; a component at the threshold of 3,000 nm. -/
theorem test_meets_DriftUpdate : waferAt (withWafer 1 (wafer .reviewing .stage) base) 1 = some (wafer .reviewing .stage) ∧
    ((20000 : Int) ≤ 20000 ∧ ¬ (20001 : Int) ≤ 20000) ∧ driftStep 6 0 8000 = 3000 ∧ driftStep 6 0 7998 = 2999 ∧
    param base 5 = 3000 ∧ (wafer .reviewing .stage).align.state = .none := ⟨rfl, by decide, by decide, by decide, by decide, rfl⟩

def intakeWords : List Word := [0x00030F01, 9, 0, 60000000, 0, 0]

/-- The common hypotheses, and each clause: RESETTING; a bad wafer; none in the table; a closed wafer; a duplicate; room
for the first entry. -/
theorem test_meets_IntakeRecordAnswered : fetchedSlot (fetched .intake false intakeWords base) .intake = some (0x100000, 3, false) ∧
    (IntakeRecord.ofWords intakeWords).badField = false ∧ (IntakeRecord.ofWords [50]).badField = true ∧
    (IntakeRecord.ofWords [0x00040001]).badField = true ∧ (IntakeRecord.ofWords [1, 9, 0, 60000001]).badField = true ∧
    (IntakeRecord.ofWords intakeWords).wafer = 1 ∧ (IntakeRecord.ofWords intakeWords).roughClass = 15 ∧
    waferAt (fetched .intake false intakeWords base) 1 = none ∧ (wafer .reviewDone .ll).phase = .reviewDone ∧
    (entryOf { base with table := [entry 0 1] } 1 9).map (·.index) = some 0 ∧ base.table.length < 2048 := by
  decide

theorem test_meets_LowestFreePlace : RevisitTable { base with table := [entry 0 1] } ∧ lowestFree [entry 0 1] 0 = 1 := by
  refine ⟨⟨by decide, fun i => ?_, by decide, by decide⟩, by decide⟩
  have := List.countP_le_length (p := fun e : Entry => e.wafer == i) (l := [entry 0 1])
  exact Nat.le_trans this (by decide)

theorem test_meets_ReviewOrder : ({ entry 1 1 with arrival := 1 } : Entry).arrival ≠ (entry 0 1).arrival ∧
    comesBefore (entry 0 1) { entry 1 1 with arrival := 1 } = true ∧
    comesBefore { entry 1 1 with arrival := 1 } { entry 2 1 with arrival := 2 } = true ∧ [entry 0 1].Nodup ∧
    dispatchWafer (withWafer 1 (wafer .reviewing .stage) base) = some 1 := by decide

def reviewed : State := withLots (some (lot .active)) none (withWafer 1 { wafer .reviewing .stage with
  transform := some ⟨⟨0, 0⟩, ⟨0, 0⟩, 1073741824, 0⟩, reviewEnd := true } base)

/-- A quota used up, and one not; a target in travel, and one out of it; a wafer for which the dispatcher makes a take,
and none. -/
theorem test_meets_TakeLooksAtHead : settingsOf reviewed 1 = some settings ∧
    targetOf reviewed (entry 0 1) = some ⟨-11765433, -14154322⟩ ∧ inTravel reviewed ⟨155000000, -155000000⟩ = true ∧
    inTravel reviewed ⟨155000001, 0⟩ = false ∧ settings.quotas.getD 3 0 = 1024 ∧
    isSampledOut (withWafer 1 { wafer .reviewing .stage with classUse := List.replicate 16 1024 } reviewed) (entry 0 1) = true ∧
    isSampledOut reviewed (entry 0 1) = false ∧ (waferAt reviewed 1).map (·.reviewEnd) = some true ∧
    reviewed.visit.current = none ∧ reviewed.visit.hold = ⟨false, false, none, false⟩ ∧ reviewed.cmd.resetting = false ∧
    stageWafer reviewed = some 1 ∧ (waferAt reviewed 1).map (·.phase) = some .reviewing ∧ stageWafer base = none ∧
    (entry 0 1).wafer = 1 := by decide

/-! ## Visits, focus and the guard -/

theorem test_meets_HoldCommands : TakesCommands hard ∧ hard.guard.state = .hardTripped ∧ paramNat hard 20 = 3 ∧
    paramNat hard 20 ≤ hard.guard.inRun ∧ TakesCommands base ∧ base.guard.state ≠ .hardTripped ∧
    TakesCommands (withGuard (fun g => { g with inRun := 2 }) hard) ∧
    (withGuard (fun g => { g with inRun := 2 }) hard).guard.inRun < 3 ∧
    ({ base.visit.hold with suspend := true } : HoldSet) ≠ ⟨false, false, none, false⟩ :=
  ⟨takes_of _ rfl rfl rfl rfl, rfl, by decide, by decide, takes_of _ rfl rfl rfl rfl, by decide,
   takes_of _ rfl rfl rfl rfl, by decide, by decide⟩

/-- A visit in each state, with its move; focus locked and settled, or not. -/
theorem test_meets_visits : (∀ st, NoRunDue (visiting st base)) ∧ (∀ st, (visiting st base).visit.current = some (visit st)) ∧
    (visiting .moving base).visit.move = some (1, ⟨0, 0⟩) ∧ (visiting .moving base).visit.move ≠ some (2, ⟨0, 0⟩) ∧
    (∀ st, (visit st).state = st) ∧ (∀ st, (visit st).timer = 0) ∧ base.visit.current = none ∧
    (withFocus (fun f => { f with state := .locked }) (visiting .settling base)).focus.state = .locked ∧
    (withFocus (fun f => { f with state := .locked }) (visiting .settling base)).focus.unsettled = false ∧
    base.focus.state ≠ .locked ∧ waferAt (withWafer 1 (wafer .reviewing .stage) base) (entry 0 1).wafer = some (wafer .reviewing .stage) :=
  ⟨fun _ => rfl, fun _ => rfl, rfl, by decide, fun _ => rfl, fun _ => rfl, rfl, rfl, rfl, by decide, rfl⟩

/-- Fewer than two retries, and two; a degrade and none. -/
theorem test_meets_StageFaults_VisitTimers : (entryAt (visiting .settling base) 0).map (·.retries) = some 0 ∧
    ({ entry 0 1 with retries := 2 } : Entry).retries = 2 ∧
    degrades (withFocus (fun f => { f with state := .lost }) base) { visit .settling with source := .mapMean } = true ∧
    degrades base (visit .settling) = false := by decide

/-- The common hypotheses, and each clause: a bad class; the visit of the record; a late one; no visit. -/
theorem test_meets_ResultRecordAnswered :
    fetchedSlot (fetched .results false [0x00011F01, 9] (visiting .ready base)) .results = some (0x100000, 3, false) ∧
    (ResultRecord.ofWords [0x00002001]).badField = true ∧ (ResultRecord.ofWords [0x00011F31, 9]).badField = false ∧
    (resultVisit (visiting .ready base) (ResultRecord.ofWords [0x00011F01, 9])).isSome = true ∧
    resultVisit (visiting .moving base) (ResultRecord.ofWords [0x00011F01, 9]) = none ∧
    lateAnswer { base with table := [{ entry 0 1 with state := .timedOut }] } (ResultRecord.ofWords [0x00010001, 9]) = (.late, 0) ∧
    lateAnswer base (ResultRecord.ofWords [0x00010001, 9]) = (.noVisit, 0) ∧
    ({ entry 0 1 with state := .done, result := some ⟨31, true, ⟨1, -2⟩⟩ } : Entry).state = .done ∧
    (entry 0 1).state ≠ .done := by decide

/-- R103: the end of a visit frees the visit unit and the focus lock, completes an abort, and counts a terminal entry. -/
theorem test_visit_ends :
    let s := { visiting .grabbed (withWafer 1 { wafer .reviewing .stage with aborting := true } base) with
      table := [{ entry 0 1 with state := .timedOut }] }
    let t := endVisit (visit .grabbed) none s
    t.visit.current = none ∧ t.focus.state = .idle ∧
    (waferAt t 1).map (fun w => (w.phase, w.outcome, w.acc.map (·.timedOut))) = some (.reviewDone, some .aborted, some 1) := by
  decide

theorem test_meets_FocusOutput : hard.guard.state ≠ .normal ∧ base.guard.state = .normal ∧
    clamp (param base 16) (param base 17) 0 = base.focus.output ∧ clamp (param base 16) (param base 17) 400001 = 400000 ∧
    (withFocus (fun f => { f with state := .lost, predicted := some 5 }) base).focus.predicted = some 5 ∧
    (withFocus (fun f => { f with state := .locked }) (visiting .ready reviewed)).visit.current = some (visit .ready) ∧
    lotOfRun reviewed (wafer .reviewing .stage).run = some (lot .active) ∧ (lot .active).settings = some settings := by decide

/-- A map with room, a full one, one with a point 499 µm and one 500 µm away; a seed of the lot and of another; near
points and none; weights that are all 0 and some that are not; two points at distance 0, the newer first. -/
theorem test_meets_FocusPrediction : ([] : List MapPoint).length < 64 ∧ (List.replicate 64 (⟨⟨0, 0⟩, 0⟩ : MapPoint)).length = 64 ∧
    (insertPoint [⟨⟨499000, 0⟩, 1⟩] ⟨⟨0, 0⟩, 2⟩).length = 1 ∧ (insertPoint [⟨⟨500000, 0⟩, 1⟩] ⟨⟨0, 0⟩, 2⟩).length = 2 ∧
    (reviewed.focus.map = [] ∧ reviewed.focus.seed = none) ∧ ({ z := 5, run := 0 } : Seed).run = (wafer .reviewing .stage).run ∧
    distance2 ⟨0, 0⟩ ⟨20000000, 0⟩ ≤ paramNat base 15 * paramNat base 15 ∧
    ¬ distance2 ⟨0, 0⟩ ⟨20001000, 0⟩ ≤ paramNat base 15 * paramNat base 15 ∧
    2 ^ 32 / 4294967297 = 0 ∧ 2 ^ 32 / 4294967296 = 1 ∧
    candidates [⟨⟨0, 0⟩, 1⟩, ⟨⟨0, 0⟩, 2⟩, ⟨⟨5000, 0⟩, 3⟩] ⟨0, 0⟩ 100 = [(0, 2), (0, 1), (25, 3)] := by decide

def traced (n : Nat) : Trace := ⟨1, 0, 9, 7, List.replicate n ⟨500, 96, .acquiring⟩⟩
def tracing : Settings := { settings with traceEnable := true, traceClass := 3, traceMask := 15 }

/-- Samples that change no guard state; without a visit, and with one, accepted and not; settings under which a trace
starts, and under which none does; a trace being recorded, empty, with 126 samples and with 127. -/
theorem test_meets_SampleTaken : NoRunDue base ∧ guardAction 500 96 { base with guard := ⟨.normal, 0, 1, none⟩ } = .none ∧
    base.visit.current = none ∧ base.focus.trace = none ∧ (visiting .moving base).visit.current = some (visit .moving) ∧
    acceptsSample base 500 2500 96 = true ∧ acceptsSample base 500 2501 96 = false ∧ acceptsSample base 500 500 95 = false ∧
    paramNat base 12 = 6 ∧ paramNat base 13 = 8 ∧ paramNat base 14 = 40 ∧
    settingsOf (withLots (some { lot .active with settings := some tracing }) none (named (wafer .reviewing .stage))) 1 = some tracing ∧
    tracing.traceEnable = true ∧ tracing.traceMismatch = false ∧
    ((entry 0 1).roughClass &&& tracing.traceMask) = (tracing.traceClass &&& tracing.traceMask) ∧
    base.focus.traceHanded = false ∧ settings.traceEnable = false ∧ (traced 0).samples = [] ∧
    (traced 126).samples.length + 1 < 128 ∧ 128 ≤ (traced 127).samples.length + 1 :=
  ⟨rfl, by decide, rfl, rfl, rfl, by decide, by decide, by decide, by decide, by decide, by decide, rfl, rfl, rfl, by decide,
   rfl, by decide, rfl, by simp [traced], by simp [traced]⟩

/-- A visit in SETTLING one accepted sample before LOCKED, and one with one unaccepted sample left in HOLDOVER. -/
def nearlyLocked : State := withFocus (fun f => { f with state := .acquiring, run := 5 }) (visiting .settling base)
def nearlyLost : State := withFocus (fun f => { f with state := .holdover, unsettled := true, holdover := 39 }) (visiting .ready base)

/-- The visit's own clauses: one that becomes READY, one whose focus is lost, and neither a sample before. -/
theorem test_meets_SampleTaken_visit : NoRunDue nearlyLocked ∧ NoRunDue nearlyLost ∧
    guardAction 500 96 nearlyLocked = .none ∧ guardAction 500 0 nearlyLost = .none ∧
    nearlyLocked.visit.current = some (visit .settling) ∧ nearlyLocked.focus.state ≠ .locked ∧
    acceptsSample nearlyLocked 500 500 96 = true ∧ paramNat nearlyLocked 12 ≤ nearlyLocked.focus.run + 1 ∧
    acceptsSample nearlyLost 500 500 0 = false ∧ paramNat nearlyLost 14 ≤ nearlyLost.focus.holdover + 1 :=
  ⟨rfl, rfl, by decide, by decide, rfl, by decide, by decide, by decide, by decide, by decide⟩

/-- R97, R99: the sample that locks the focus makes the visit READY, with the result timer started.
R119: the sample that ends HOLDOVER in LOST posts FOCUS_LOST, and the visit stays READY. -/
theorem test_sample_and_visit :
    (let t := takeSample 500 96 nearlyLocked
     t.visit.current = some { visit .ready with timer := paramNat base 9 } ∧ t.table.map (·.state) = [.ready] ∧
     t.cmd.causes = 8) ∧
    (let t := takeSample 500 0 nearlyLost
     t.focus.state = .lost ∧ t.visit.current = some (visit .ready) ∧ t.cmd.causes = 2) := by decide

/-- R135: a sample joins the trace with the focus state after the lock has taken it. R122: on entry to LOST the output is
the predicted one, sent after the first FOCUS_SET owed (R137), and with the guard tripped it stays. -/
theorem test_sample_output_and_trace :
    (let t := focusSample 500 96 (withFocus (fun f => { f with trace := some (traced 0) }) nearlyLocked)
     t.focus.trace = some { traced 0 with samples := [⟨500, 96, .locked⟩] } ∧ t.focus.output = 500) ∧
    (let s := withFocus (fun f => { f with predicted := some 520, output := 600, owed := true }) nearlyLost
     (focusSample 500 0 s).out = [.focusSet 520, .focusSet 600] ∧ (focusSample 500 0 s).focus.output = 520 ∧
     (focusSample 500 0 (withGuard (fun g => { g with state := .softTripped }) s)).out = [.focusSet 600]) := by decide

/-- R136: a trace that ends with two samples is handed over with them; an empty one is not. -/
theorem test_trace_ends :
    (let t := endTrace (withFocus (fun f => { f with trace := some (traced 2) }) base)
     t.focus.trace = none ∧ t.focus.traceHanded = true ∧ t.report.queue.length = 1) ∧
    (let t := endTrace (withFocus (fun f => { f with trace := some (traced 0) }) base)
     t.focus.trace = none ∧ t.focus.traceHanded = false ∧ t.report.queue.length = 0) := by decide

/-- The third sample out of band trips, at 300,001 nm; in HARD mode from SOFT_TRIPPED; the third in band releases; the
second out of band, an invalid one, one after a HARD trip and the second in band do neither. -/
theorem test_meets_GuardTrips : base.cmd.paramsValid = true ∧ param base 10 ≤ ((96 : BitVec 8).toNat : Int) ∧
    ¬ (300001 : Int) ≤ param base 19 ∧ (300000 : Int) ≤ param base 19 ∧ paramNat base 20 ≤ min 255 (2 + 1) ∧
    base.guard.state = .normal ∧ param base 21 = 1 ∧
    guardAction 300001 96 { base with guard := ⟨.softTripped, 3, 0, none⟩ } = .hardTrip ∧
    guardAction 300000 96 { base with guard := ⟨.softTripped, 0, 3, none⟩ } = .release ∧
    guardAction 300001 96 { base with guard := ⟨.normal, 2, 0, none⟩ } = .none ∧
    guardAction 300001 95 { base with guard := ⟨.normal, 2, 0, none⟩ } = .none ∧
    guardAction 300001 96 { base with guard := ⟨.hardTripped, 3, 0, none⟩ } = .none ∧
    guardAction 300000 96 { base with guard := ⟨.softTripped, 0, 2, none⟩ } = .none := by decide

/-- The guard mode SOFT, and a visit whose entry has been spoiled before. -/
def soft : State := { base with cmd := { base.cmd with paramRaw := base.cmd.paramRaw.set 21 0 } }
def spoiled (n : Nat) (st : VisitState) : State := { visiting st base with table := [{ entry 0 1 with retries := n }] }

/-- The clauses of a SOFT trip and of a HARD one: without a visit, and with one at a retry of 1 and of 2, MOVING and not. -/
theorem test_meets_GuardTrips_modes : NoRunDue soft ∧ ¬ param soft 21 = 1 ∧ soft.guard.state = .normal ∧
    guardAction 300001 96 { soft with guard := ⟨.normal, 3, 0, none⟩ } = .softTrip ∧ base.visit.current = none ∧
    (spoiled 1 .moving).visit.current = some (visit .moving) ∧ (spoiled 1 .moving).visit.move ≠ none ∧
    (spoiled 2 .grabbed).visit.move = none ∧ (entryAt (spoiled 1 .moving) 0).map (·.retries) = some 1 ∧
    (entryAt (spoiled 2 .grabbed) 0).map (·.retries) = some 2 :=
  ⟨rfl, by decide, rfl, by decide, rfl, rfl, by decide, rfl, by decide, by decide⟩

/-- R112, R142, R143: a HARD trip halts the move and requeues the entry, or at two retries makes it FOCUS_FAILED; a SOFT
trip leaves the hold set, the visit and the stage as they were. -/
theorem test_trips :
    (let t := hardTripActions (spoiled 1 .moving)
     t.out = [.halt] ∧ t.visit.move = none ∧ t.visit.current = none ∧ t.visit.hold.guard = true ∧
     t.table.map (fun e => (e.state, e.retries)) = [(.queued, 2)]) ∧
    (let t := hardTripActions (spoiled 2 .grabbed)
     t.out = [] ∧ t.visit.current = none ∧ t.table.map (·.state) = [.focusFailed]) ∧
    (let t := takeSample 300001 96 { soft with guard := ⟨.normal, 2, 0, none⟩ }
     t.guard = ⟨.softTripped, 3, 0, some 300001⟩ ∧ t.visit.hold = soft.visit.hold ∧ t.cmd.causes = 1) := by decide

/-! ## Resets, loading, cells, the upstream side and jobs -/

theorem test_meets_resets : NoRunDue base ∧ PageOpen base ∧ base.cmd.resetting = false ∧
    (visiting .moving hard).visit.move ≠ none ∧ hard.guard.state = .hardTripped := ⟨rfl, base_open, rfl, by decide, rfl⟩

/-- An empty lot queue and one that is not; LOADING due by a reload, by a soft reset, and not due. -/
theorem test_meets_MapReload : base.lots = ⟨none, none⟩ ∧ (withLots (some (lot .held)) none base).lots ≠ ⟨none, none⟩ ∧
    PageOpen (withLots (some (lot .held)) none base) ∧ PageOpen (resetting base) ∧
    loadingDue { base with path := { base.path with draining := true } } = true ∧
    loadingDue (resetting base) = true ∧ loadingDue (resetting (ordered (order .pick .slot .armL false) (wafer .toPA .slot) base)) = false ∧
    loadingDue (withJobs [mapBlockJob] (resetting base)) = false :=
  ⟨rfl, by decide, open_of _ rfl, open_of _ rfl, by decide, by decide, by decide, by decide⟩

/-- The end of LOADING with a map of no zone and every parameter word at -5, which word 0 does not
admit and word 16 does. -/
def emptyMap : State := { State.reset with path := { State.reset.path with
  jobs := [⟨.mapBlock, [], List.replicate 36 0⟩, ⟨.paramArea, [], List.replicate 128 (-5)⟩] } }


/-- The state after power-on; a soft reset with a wafer out of its slot, with one in it, and with none. -/
theorem test_meets_LoadingEnds : State.reset.path.mode = .loading ∧
    (State.reset.path.jobs.take 2).map (·.kind) = [.mapBlock, .paramArea] ∧ TableOfWafers State.reset ∧
    State.reset.cmd.resetting = false ∧ (resetting State.reset).cmd.resetting = true ∧
    waferAt (withWafer 1 (wafer .toPA .armL) (resetting State.reset)) 1 = some (wafer .toPA .armL) ∧
    (wafer .toPA .armL).location ≠ .slot ∧ (wafer .waiting .slot).location = .slot ∧
    State.reset.path.jobs = mapBlockJob :: paramAreaJob :: [] ∧
    waferAt (withWafer 1 (wafer .toPA .unknown) (resetting State.reset)) 1 = some (wafer .toPA .unknown) ∧
    (wafer .toPA .armL).location ≠ .unknown ∧ (emptyMap.path.jobs.take 2).map (·.kind) = [.mapBlock, .paramArea] ∧
    mapFault (bits (nth (headWords emptyMap) 0) 0 4) ((List.range 8).map (Zone.ofWords (headWords emptyMap))) = none ∧
    mapFault (bits (nth (List.replicate 36 (-1)) 0) 0 4) [] = some (1, 0) ∧ sameZone zones zones .reports = true ∧
    sameZone (zones.set 5 (zoneWith .reports 0x106 1)) zones .reports = false ∧ param emptyMap 16 ≠ inForce 16 (-5) ∧
    isClamped 0 (nth (headWords (finishHead emptyMap)) 0) = true :=
  ⟨rfl, rfl, rfl, rfl, rfl, rfl, by decide, rfl, rfl, rfl, by decide, rfl, by decide, by decide, by decide, by decide,
   by decide, by decide⟩

/-- R47, R19: a soft reset that completes with a kept record UNKNOWN leaves HALTED, and with none IDLE. -/
theorem test_reset_completes :
    (completeReset (withWafer 1 (wafer .toPA .unknown) (resetting base))).handling.state = .halted ∧
    (completeReset (withWafer 1 (wafer .toPA .armL) (resetting base))).handling.state = .idle := by decide

/-- A valid map; 9 descriptors said; no page and 1,025 pages; a zone that reaches the page, and one that ends at it; two
zones that overlap; a kind used twice, and GUARDED used twice. -/
theorem test_meets_MapTests : zones.length = 8 ∧ mapFault 7 zones = none ∧ mapFault 9 zones = some (1, 0) ∧
    mapFault 6 zones = some (1, 0) ∧ mapFault 7 (zones.set 2 (zoneWith .marks 0x102 0)) = some (2, 2) ∧
    mapFault 7 (zones.set 2 (zoneWith .marks 0x400 1025)) = some (2, 2) ∧
    mapFault 7 (zones.set 2 (zoneWith .marks 0xFFE 2)) = some (3, 2) ∧ mapFault 7 (zones.set 2 (zoneWith .marks 0xFFE 1)) = none ∧
    mapFault 7 (zones.set 2 (zoneWith .marks 0x101 1)) = some (4, 2) ∧
    mapFault 7 (zones.set 2 (zoneWith .results 0x102 1)) = some (5, 2) ∧
    mapFault 8 (zones.set 7 ⟨.guarded, 0x300, 1, false, 0, true⟩) = none := by decide

theorem test_meets_CellWrites : CopiesComplete base ∧ CellsOpen base ∧ (3 : Nat) < 4 ∧ PageOpen (inMode .transparent base) ∧
    (inMode .transparent base).path.mode = .transparent ∧ zoneOf base .events = some (zoneWith .events 0x104 1) ∧
    (overlay 0 254 15).toNat < 256 * 1 - 1 ∧ 256 * 1 - 1 ≤ (overlay 0 255 15).toNat ∧
    zoneOf base .reports = some (zoneWith .reports 0x105 1) ∧ (overlay 0 1019 15).toNat < 1024 * 1 - 4 ∧
    1024 * 1 - 4 ≤ (overlay 0 1020 15).toNat :=
  ⟨⟨rfl, rfl⟩, ⟨base_open, rfl⟩, by decide, open_transparent, rfl, by decide, by decide, by decide, by decide, by decide, by decide⟩

/-- An ignored word; a bound, and one beyond it; the default; an output bound that changes and one that does not. -/
theorem test_meets_ParameterWrite : paramRange 22 = none ∧ (paramRange 0).map (·.low) = some 1000 ∧
    isClamped 0 1000 = false ∧ isClamped 0 999 = true ∧ inForce 0 (overlay defaultMark 999 15) = 1000 ∧
    inForce 16 defaultMark ≠ inForce 16 0 ∧ inForce 16 1 = inForce 16 0 ∧ (127 : Nat) < 128 ∧
    [21, 22, 31, 32, 47, 48, 51, 52, 63, 64, 83, 84, 127].map (fun n => (paramRange n).isSome) =
      [true, false, false, true, true, true, true, false, false, true, true, false, false] := by decide

/-- Protected words of a GUARDED zone, of a ring, and of a layout record in use; plain words. -/
theorem test_meets_UpstreamWrite : BusFree base ∧ (Instr.upstreamWrite 0x81800 (whole 1)).wellFormed = true ∧
    4 * (0x81800 : BitVec 22).toNat = 0x206000 ∧ protectedBy base 0x206000 = some 6 ∧ protectedBy base 0x205FFC = none ∧
    protectedBy base 0x104000 = some 4 ∧ 0x206000 / 32 * 32 ∉ base.path.held ∧
    protectedBy (withLots (some (lot .active)) none base) 0x1030BC = some 3 ∧
    protectedBy (withLots (some (lot .active)) none base) 0x1030C0 = none ∧ ¬ 0x205FF8 % 32 = 28 :=
  ⟨base_free, by decide, by decide, by decide, by decide, by decide, by decide, by decide, by decide, by decide⟩

def fullQueue : State := withJobs (List.replicate 16 ⟨.event, [], []⟩) base
def waiting (s : State) : State := { s with path := { s.path with upWait := [⟨0x1000, .write 5 15, false⟩] } }

/-- The tag word of slot 0 of the INTAKE zone: with a place, with a full queue, behind another producer, at a depth of 12
to 15 without the bus and with it, held, while RESETTING, and outside the slots; words that wait, in LOADING and not. -/
theorem test_meets_PostingAndResume : (Instr.posting 0x40007 (whole 0x80000000)).wellFormed = true ∧
    4 * (0x40007 : BitVec 22).toNat = 0x10001C ∧ protectedBy base 0x10001C = none ∧
    slotAt base 0x10001C = some (.intake, 0x100000) ∧ base.path.waiters = [] ∧ depth base < 12 ∧ depth fullQueue = 16 ∧
    fullQueue.path.upWait = [] ∧ 0x10001C / 32 * 32 ∈ [0x100000] ∧ slotAt base 0x20001C = none ∧
    ({ base with path := { base.path with waiters := [.report] } } : State).path.waiters.head? ≠ some .fetch ∧
    (¬ depth (deep 15) < 12 ∧ depth (deep 15) < 16 ∧ (deep 15).path.upBurst ≠ .carried ∧ slotAt (deep 15) 0x10001C = some (.intake, 0x100000)) ∧
    (burst .carried (deep 12)).path.upBurst = .carried ∧
    (waiting base).path.upWait = [⟨0x1000, .write 5 15, false⟩] ∧ (inMode .loading (waiting base)).path.mode = .loading ∧
    protectedBy (waiting base) 0x4000 = none ∧ 0x4000 % 32 ≠ 28 := by decide

/-- A state in which words of the bus wait. -/
def waitingFor (us : List UpWord) (s : State) : State := { s with path := { s.path with upWait := us } }

/-- A posting to slot 0 of the INTAKE zone that waits. -/
def held (s : State) : State := waitingFor [⟨0x40007, .write 0x80000000 15, false⟩] s

/-- BURST_RESUME: each kind of row's word, that need not wait any more; one that must; the words served. -/
theorem test_meets_BurstResume :
    mustWait base (commandWrite 7 command) = false ∧ commandRow 7 command = .reviewSuspend command ∧
    mustWait base (cellWrite 0x12C (whole 1)) = false ∧ mustWait base (cellWrite 0x104 (whole 1)) = false ∧
    mustWait base (cellWrite 0x200 (whole 1)) = false ∧ mustWait base (memoryWrite 0x40007 (whole 0x80000000)) = false ∧
    mustWait fullQueue (memoryWrite 0x1000 (whole 5)) = true ∧ base.path.upWait = [] ∧
    natureOf base (memoryWrite 0x40007 (whole 0x80000000)) = .posting .intake 0x100000 ∧
    natureOf base (memoryWrite 0x1000 (whole 5)) = .forwarded ∧ natureOf base (cellWrite 0x118 (whole 5)) = .forwarded ∧
    (cellWrite 0x118 (whole 5)).addr = 0xFFF104 + 4 * 5 ∧ base.cmd.args.length = 6 := by decide

/-- R176, R182: a command that waited is carried out; a posting that waited takes its place in the queue; and of an access
of three words the first two are served, the posting among them, and the last, of its held slot, waits on. -/
theorem test_burst_resume :
    (∃ t, exec .burstResume (waitingFor [commandWrite 7 command] base) = .next t ∧ t.visit.hold.suspend = true ∧
      t.path.upWait = []) ∧
    (∃ t, exec .burstResume (held base) = .next t ∧ depth t = 1 ∧ t.path.held = [0x100000]) ∧
    (∃ t, exec .burstResume (waitingFor [⟨0x3FFC41, .write 9 15, true⟩, ⟨0x40007, .write 0x80000000 15, true⟩,
        ⟨0x40000, .write 1 15, false⟩] base) = .next t ∧ t.cmd.args.getD 0 0 = 9 ∧ depth t = 1 ∧
      t.path.upWait = [⟨0x40000, .write 1 15, false⟩]) :=
  ⟨⟨_, rfl, by decide, by decide⟩, ⟨_, rfl, by decide, by decide⟩, _, rfl, by decide, by decide, by decide⟩

def reporting (producer consumer : Nat) : State :=
  { base with report := { queue := [⟨.wafer 1, List.replicate 28 0⟩], producer := producer, wrap := 6, consumer := consumer } }

/-- The last clause: a posting that waits with no place, with a place, and one that waits for a place already. -/
theorem test_meets_noteWait : (held fullQueue).path.upWait.head?.any (waitsForPlace (held fullQueue)) = true ∧
    natureOf (held fullQueue) ⟨0x40007, .write 0x80000000 15, false⟩ = .posting .intake 0x100000 ∧
    depth (held fullQueue) = 16 ∧ Producer.fetch ∉ (held fullQueue).path.waiters ∧ depth (held (deep 15)) < 16 ∧
    Producer.fetch ∈ (noteWait (held fullQueue)).path.waiters ∧ noteWait (held (deep 15)) = held (deep 15) := by decide

/-- R184: a posting that waits on the bus at a depth of 15 waits for a place from the event on that fills the queue, and so
before a REPORT whose ring has room later. -/
theorem test_queue_fills_under_posting :
    let s := setWaiting [⟨0x40007, .write 0x80000000 15, false⟩] (deep 15)
    let t := postEvent .protectDrop none 0 0 s
    s.path.waiters = [] ∧ depth t = 16 ∧ t.path.waiters = [.fetch] ∧
    (queueReport { t with report := (reporting 990 990).report }).path.waiters = [.fetch, .report] := by decide

/-- R184: a REPORT with room for it waits for a place from the event on that fills the queue, and so before a posting that
comes later; a posting that waits on the bus at that moment goes before it (log 29). -/
theorem test_queue_fills_under_report :
    let s := { deep 15 with report := (reporting 990 990).report }
    let t := postEvent .protectDrop none 0 0 s
    s.path.waiters = [] ∧ ringTest s = s ∧ t.path.waiters = [.report] ∧
    (upstream ⟨0x40007, .write 0x80000000 15, false⟩ t).path.waiters = [.report, .fetch] ∧
    (postEvent .protectDrop none 0 0 (held s)).path.waiters = [.fetch, .report] := by decide

/-- R185: no job runs or completes between a dropped word of a burst and its next word, which goes to memory. -/
theorem test_dropped_word_keeps_burst :
    let s := serveWord ⟨0x81FFF, .write 1 15, true⟩ (withJobs [⟨.event, [.write 0 [1], .write 4 [2]], []⟩] base)
    let t := serveWord ⟨0x82000, .write 7 15, false⟩ s
    s.path.lastDrop = some 6 ∧ s.path.upBurst = .begun ∧ headKind s = none ∧ idleStep s = s ∧
    readWord t.mem 0x208000 = 7 ∧ t.path.upBurst = .none ∧ headKind t = some .event := by decide

/-- A state in which a read burst has been sent, or a part of one. -/
def sent (r : ReadAccess) (s : State) : State := { s with reads := [r] }

/-- Read bursts of plain memory, and of the command status and status cells; at a depth of 1 and of 12; one that waits. -/
theorem test_meets_reads : NoRunDue (sent ⟨0x1000, 1, true⟩ (deep 1)) ∧ (deep 1).pending = [] ∧ depth (deep 1) < 12 ∧
    4 * (0x1000 + BitVec.ofNat 22 1 : BitVec 22).toNat ≠ 0xFFF128 ∧ overlaid (deep 12) 0x4000 = none ∧
    (overlaid (deep 12) 0xFFF124).isSome = true ∧ (deep 12).path.upBurst ≠ .carried ∧
    4 * (0x3FFC48 + BitVec.ofNat 22 1 : BitVec 22).toNat = 0xFFF124 ∧
    (ReadAccess.words ⟨0x1000, 1, false⟩) = [⟨0x1000, .read, true⟩, ⟨0x1001, .read, false⟩] := ⟨rfl, by decide⟩

/-- R182, R185: the first part of a read burst has the bus, so that no job runs until its last word has been answered. -/
theorem test_read_burst_holds :
    let s := idleStep (sent ⟨0x1000, 1, true⟩ (deep 1))
    let t := idleStep (sent ⟨0x1002, 0, false⟩ s)
    s.path.upBurst = .carried ∧ s.path.answered.length = 2 ∧ exec .eventJobComplete s = .next s ∧
    t.path.upBurst = .none ∧ headKind t = some .event := ⟨by decide, by decide, rfl, by decide, by decide⟩

/-- R185: from a depth of 12 the read burst of 0xFFF11C to 0xFFF120 waits, and that of 0xFFF120 to 0xFFF124 does not. -/
theorem test_read_burst_waits :
    (idleStep (sent ⟨0x3FFC47, 1, false⟩ (deep 12))).path.upWait = ReadAccess.words ⟨0x3FFC47, 1, false⟩ ∧
    (idleStep (sent ⟨0x3FFC48, 1, false⟩ (deep 12))).path.upWait = [] ∧
    (idleStep (sent ⟨0x3FFC48, 1, true⟩ (deep 12))).path.upBurst = .begun := by decide

/-- An ACCEPT and an EVENT job at the head; a word of plain memory that waits and need not, at a depth of 1 and of 12; an
upstream burst that holds the bus; a job with two bursts left, of each kind, and with one. -/
theorem test_meets_AcceptAndEventJobs : NoRunDue (waiting (deep 1)) ∧
    (withJobs [acceptJob 0x100000 .accepted 3 2047] base).path.jobs = acceptJob 0x100000 .accepted 3 2047 :: [] ∧
    base.path.upBurst = .none ∧ base.path.upWait = [] ∧
    (withJobs [⟨.event, [], []⟩] base).path.jobs = ⟨.event, [], []⟩ :: [] ∧ jobsHaveBus (deep 1) = true ∧
    mustWait (waiting (deep 1)) ⟨0x1000, .write 5 15, false⟩ = false ∧
    jobsHaveBus (waiting (deep 1)) = false ∧ jobsHaveBus (waiting (deep 12)) = true ∧ headKind (deep 1) = some .event ∧
    jobsHaveBus (burst .carried (deep 1)) = false ∧ jobsHaveBus (burst .begun (deep 1)) = false ∧
    base.pending = [] ∧ base.reads = [] ∧
    jobsHaveBus (withJobs [⟨.event, [.write 0 [1], .write 4 [2]], []⟩] base) = true ∧
    jobsHaveBus (withJobs [⟨.layout, [.read 0 8, .read 32 8], []⟩] base) = true ∧ base.path.jobs = [] := ⟨rfl, by decide⟩

/-- R185: below a depth of 12 a word that need not wait any more goes before the head job's burst. -/
theorem test_upstream_goes_first :
    let s := waiting (withJobs [⟨.event, [.write 0 [1], .write 4 [2]], []⟩] base)
    idleStep s = s ∧ exec .eventJobComplete s = .next s ∧
    (∃ t, exec .burstResume s = .next t ∧ t.path.upWait = [] ∧ readWord t.mem 0x4000 = 5 ∧
      readWord (idleStep t).mem 0 = 1) := ⟨by decide, rfl, _, rfl, by decide, by decide, by decide⟩

/-- A head with no room (9 words), and with room (1,019 words) at the room of 30; a REPORT job at the head. -/
theorem test_meets_ReportJobs : zoneOf (reporting 990 1000) .reports = some (zoneWith .reports 0x105 1) ∧
    990 < 1024 * 1 - 4 ∧ ((1000 - 990 - 1 : Int) % 1020).toNat < 28 ∧ 28 ≤ ((990 - 990 - 1 : Int) % 1020).toNat ∧
    (reporting 990 990).path.waiters = [] ∧ base.report.queue = [] ∧
    ¬ (([.layout] : List Producer) = [] ∨ ([.layout] : List Producer).head? = some .report) ∧
    headKind (withJobs [⟨.report ⟨0, 28, 6, some (.wafer 1)⟩, [], []⟩] base) = some (.report ⟨0, 28, 6, some (.wafer 1)⟩) ∧
    headKind (withJobs [⟨.report ⟨0, 0, 0, none⟩, [], []⟩] base) = some (.report ⟨0, 0, 0, none⟩) ∧
    lotOfRun (withLots (some (lot .closing)) none base) 0 = some (lot .closing) ∧
    pendingReload.path.reloadPending = true ∧ leaveQueue 0 ⟨some (lot .closing), none⟩ = ⟨none, none⟩ ∧
    leaveQueue 0 ⟨some (lot .closing), some { lot .pending with run := 1 }⟩ = ⟨some { lot .active with run := 1 }, none⟩ ∧
    fives.classCounts.length = 32 ∧ 5 ≤ 65535 ∧ lotAcc.totals.length = 32 ∧ (∀ r ∈ [0, 1, 25, 0], r ≤ 25) ∧
    (traced 4).samples.length ≤ 128 := by decide

/-- The ring test: a head that needs a job without a place, not waiting and waiting; with a place; and one with no room. -/
theorem test_meets_ringTest :
    reportLacksPlace { fullQueue with report := (reporting 990 990).report } = true ∧
    Producer.report ∉ fullQueue.path.waiters ∧ (writableReport (reporting 990 990)).isSome = true ∧
    reportLacksPlace (reporting 990 990) = false ∧ writableReport (reporting 990 1000) = none ∧
    Producer.report ∈ (ringTest { fullQueue with report := (reporting 990 990).report }).path.waiters := by decide

/-- R150, R153, R154: headers and lengths of the three reports, and the first class pair. -/
theorem test_report_words :
    let r := waferReportWords (firing .active) 1 (wafer .reviewDone .ll) fives [0, 1, 25, 0]
    r.length = 58 ∧ r.head? = some 0x00003A01 ∧ r[24]? = some 0x00190100 ∧ r[27]? = some 0x00050001 ∧
    (lotReportWords (firing .active) (lot .closing) lotAcc).head? = some 0x00002D02 ∧
    (lotReportWords (firing .active) (lot .closing) lotAcc)[4]? = some 1 ∧
    (traceReportWords (traced 2)).length = 10 ∧ (traceReportWords (traced 2)).head? = some 0x00000A03 ∧
    (traceReportWords (traced 2))[7]? = some 0x00000160 := by decide

theorem test_meets_OffsetSum : ({ entry 0 1 with state := .done } : Entry).state = .done ∧ (entry 0 1).state ≠ .done ∧
    [entry 0 1].length ≤ 1024 ∧ (entry 0 1).result = none := by decide

end Sys2Proof.Tests
end

-- ==== Proofs: rounded quotients and the coefficients of the transform (R54) ====
section
namespace Sys2Proof.Machine

/-! ## Rounded quotients -/

/-- The half that `roundDiv` adds before it divides never carries an exact quotient to the next integer. -/
theorem half_up_ediv_of_multiple (k : Int) {d : Nat} (hd : 0 < d) : (2 * (k * d) + d) / (2 * d) = k := by
  have hpos : (0 : Int) < d := by exact_mod_cast hd
  have half : (d : Int) / (2 * d) = 0 := Int.ediv_eq_zero_of_lt hpos.le (by omega)
  calc (2 * (k * d) + d) / (2 * d : Int) = (d + k * (2 * d)) / (2 * d) := by ring_nf
    _ = d / (2 * d) + k := Int.add_mul_ediv_right _ _ (by omega)
    _ = k := by rw [half, zero_add]

/-- Rounding leaves an exact quotient, of either sign, as it is. -/
theorem roundDiv_mul_self (k : Int) {d : Nat} (hd : 0 < d) : roundDiv (k * d) d = k := by
  unfold roundDiv
  split
  case isTrue => exact half_up_ediv_of_multiple k hd
  case isFalse => rw [← Int.neg_mul, half_up_ediv_of_multiple (-k) hd, Int.neg_neg]

theorem roundDiv_zero {d : Nat} (hd : 0 < d) : roundDiv 0 d = 0 := by
  simpa using roundDiv_mul_self 0 hd

/-! ## Squared lengths and coefficients -/

/-- `norm2` is the dot product of the vector with itself: `toNat` cuts nothing off. -/
theorem norm2_eq_dot (d : Point) : (norm2 d : Int) = d.x * d.x + d.y * d.y :=
  Int.toNat_of_nonneg (add_nonneg (mul_self_nonneg _) (mul_self_nonneg _))

theorem norm2_pos {d : Point} (hd : d ≠ ⟨0, 0⟩) : 0 < norm2 d := by
  rw [Nat.pos_iff_ne_zero]
  intro hzero
  have hdot : d.x * d.x + d.y * d.y = 0 := by rw [← norm2_eq_dot, hzero, Nat.cast_zero]
  obtain ⟨hx, hy⟩ := mul_self_add_mul_self_eq_zero.mp hdot
  cases d with
  | mk x y => exact hd (by rw [show x = 0 from hx, show y = 0 from hy])

/-- A measured vector equal to the design vector has the scale 1.0 of Q2.30. -/
theorem coeffA_self {d : Point} (hd : d ≠ ⟨0, 0⟩) : coeffA d d = q30 := by
  rw [coeffA, ← norm2_eq_dot, roundDiv_mul_self q30 (norm2_pos hd)]

/-- A measured vector equal to the design vector is not rotated: their cross product is 0. -/
theorem coeffB_self {d : Point} (hd : d ≠ ⟨0, 0⟩) : coeffB d d = 0 := by
  have cross : d.x * d.y - d.y * d.x = 0 := by ring
  rw [coeffB, cross, mul_zero, roundDiv_zero (norm2_pos hd)]

/-- Settles O30: the quotients are R54's by definition, and two equal vectors give an exact quotient of `q30` and a
cross product of 0. -/
theorem transformCoefficients : Obligations.TransformCoefficients := by
  intro p q d m n
  refine ⟨rfl, rfl, rfl, rfl, fun hmd hd => ?_⟩
  have ha : coeffA d m = q30 := by rw [hmd, coeffA_self hd]
  have hb : coeffB d m = 0 := by rw [hmd, coeffB_self hd]
  exact ⟨ha, hb⟩

end Sys2Proof.Machine
end

-- ==== Proofs: the review order of a wafer's queued list (R78) ====
section
namespace Sys2Proof.Machine

/-! ## The keys of R78 as one lexicographic key -/

/-- The column as the serpentine of R78 counts it: rising along an even row, falling along an odd one. -/
def serpentineCol (e : Entry) : Int := if e.row % 2 = 0 then e.col else -e.col

/-- The five keys of R78, each so oriented that the smaller value comes first. -/
def reviewKey (e : Entry) : Int ×ₗ Int ×ₗ Int ×ₗ Int ×ₗ Nat :=
  toLex (-e.priority, toLex (e.row, toLex (serpentineCol e, toLex (e.inDie.y, e.arrival))))

theorem reviewKey_lt_iff (a b : Entry) : reviewKey a < reviewKey b ↔
    b.priority < a.priority ∨ a.priority = b.priority ∧ (a.row < b.row ∨ a.row = b.row ∧
      (serpentineCol a < serpentineCol b ∨ serpentineCol a = serpentineCol b ∧
        (a.inDie.y < b.inDie.y ∨ a.inDie.y = b.inDie.y ∧ a.arrival < b.arrival))) := by
  simp [reviewKey, Prod.Lex.toLex_lt_toLex]

theorem serpentineCol_eq_iff {a b : Entry} (hrow : a.row = b.row) :
    serpentineCol a = serpentineCol b ↔ a.col = b.col := by
  unfold serpentineCol
  rw [hrow]
  split <;> omega

theorem serpentineCol_lt_iff {a b : Entry} (hrow : a.row = b.row) : serpentineCol a < serpentineCol b ↔
    ¬ a.row % 2 = 1 ∧ a.col < b.col ∨ a.row % 2 = 1 ∧ b.col < a.col := by
  unfold serpentineCol
  rw [hrow]
  split <;> omega

/-- The model's nest of tests compares the keys in turn. -/
theorem comesBefore_iff_reviewKey_lt (a b : Entry) : comesBefore a b = true ↔ reviewKey a < reviewKey b := by
  rw [reviewKey_lt_iff]
  unfold comesBefore
  by_cases hprio : a.priority = b.priority
  case neg => simp [hprio]
  by_cases hrow : a.row = b.row
  case neg => simp [hprio, hrow]
  rw [serpentineCol_lt_iff hrow, serpentineCol_eq_iff hrow]
  by_cases hcol : a.col = b.col
  case neg =>
    rcases Int.emod_two_eq_zero_or_one b.row with heven | hodd
    · simp [hprio, hrow, hcol, heven]
    · simp [hprio, hrow, hcol, hodd]
  by_cases hy : a.inDie.y = b.inDie.y
  · simp [hprio, hrow, hcol, hy]
  · simp [hprio, hrow, hcol, hy]

/-- The keys of R78 in turn, the parity of A's row being that of B's where it counts. -/
theorem comesBefore_iff (a b : Entry) : comesBefore a b = true ↔
    (b.priority < a.priority) ∨
    (a.priority = b.priority ∧ a.row < b.row) ∨
    (a.priority = b.priority ∧ a.row = b.row ∧
      ((¬ a.row % 2 = 1 ∧ a.col < b.col) ∨ (a.row % 2 = 1 ∧ b.col < a.col))) ∨
    (a.priority = b.priority ∧ a.row = b.row ∧ a.col = b.col ∧ a.inDie.y < b.inDie.y) ∨
    (a.priority = b.priority ∧ a.row = b.row ∧ a.col = b.col ∧ a.inDie.y = b.inDie.y ∧ a.arrival < b.arrival) := by
  rw [comesBefore_iff_reviewKey_lt, reviewKey_lt_iff]
  by_cases hrow : a.row = b.row
  · rw [serpentineCol_lt_iff hrow, serpentineCol_eq_iff hrow]
    tauto
  · simp [hrow]

theorem arrival_eq_of_reviewKey_eq {a b : Entry} (h : reviewKey a = reviewKey b) : a.arrival = b.arrival := by
  simp only [reviewKey, toLex_inj, Prod.mk.injEq] at h
  obtain ⟨-, -, -, -, harrival⟩ := h
  exact harrival

/-- No tie: entries with different arrival numbers differ in the last key at the latest. -/
theorem comesBefore_total_of_arrival_ne {a b : Entry} (h : a.arrival ≠ b.arrival) :
    comesBefore a b = true ∨ comesBefore b a = true := by
  simp only [comesBefore_iff_reviewKey_lt]
  exact lt_or_gt_of_ne (mt arrival_eq_of_reviewKey_eq h)

theorem comesBefore_asymm {a b : Entry} (h : comesBefore a b = true) : comesBefore b a = false := by
  rw [← Bool.not_eq_true, comesBefore_iff_reviewKey_lt]
  exact lt_asymm ((comesBefore_iff_reviewKey_lt a b).mp h)

theorem comesBefore_trans {a b c : Entry} (hab : comesBefore a b = true) (hbc : comesBefore b c = true) :
    comesBefore a c = true := by
  rw [comesBefore_iff_reviewKey_lt] at hab hbc ⊢
  exact hab.trans hbc

/-! ## The model's insertion sort -/

section InsertionSort
variable {α : Type} (le : α → α → Bool)

theorem insertSorted_perm (a : α) (l : List α) : (insertSorted le a l).Perm (a :: l) := by
  induction l with
  | nil => exact .refl _
  | cons b l ih =>
    unfold insertSorted
    split
    case isTrue => exact .refl _
    case isFalse => exact (ih.cons b).trans (.swap a b l)

theorem sortBy_perm (l : List α) : (sortBy le l).Perm l := by
  induction l with
  | nil => exact .refl _
  | cons a l ih => exact (insertSorted_perm le a _).trans (ih.cons a)

/-- Only `a` and the elements of the list need be comparable: where `a` goes past one, that one comes before it. -/
theorem insertSorted_pairwise (htrans : ∀ x y z, le x y = true → le y z = true → le x z = true) {a : α}
    {l : List α} (hcmp : ∀ b ∈ l, le a b = true ∨ le b a = true) (hl : l.Pairwise fun x y => le x y = true) :
    (insertSorted le a l).Pairwise fun x y => le x y = true := by
  induction l with
  | nil => exact List.pairwise_singleton _ _
  | cons b l ih =>
    rw [List.forall_mem_cons] at hcmp
    obtain ⟨hcmpb, hcmpl⟩ := hcmp
    obtain ⟨hb, htail⟩ := List.pairwise_cons.mp hl
    unfold insertSorted
    split
    case isTrue hab =>
      have ha : ∀ x ∈ l, le a x = true := fun x hx => htrans a b x hab (hb x hx)
      exact List.pairwise_cons.mpr ⟨List.forall_mem_cons.mpr ⟨hab, ha⟩, hl⟩
    case isFalse hab =>
      have hba : le b a = true := hcmpb.resolve_left hab
      refine List.pairwise_cons.mpr ⟨fun x hx => ?_, ih hcmpl htail⟩
      obtain rfl | hx := List.mem_cons.mp ((insertSorted_perm le a l).mem_iff.mp hx)
      · exact hba
      · exact hb x hx

theorem sortBy_pairwise (htrans : ∀ x y z, le x y = true → le y z = true → le x z = true) {l : List α}
    (hcmp : l.Pairwise fun x y => le x y = true ∨ le y x = true) :
    (sortBy le l).Pairwise fun x y => le x y = true := by
  induction l with
  | nil => exact .nil
  | cons a l ih =>
    obtain ⟨ha, hl⟩ := List.pairwise_cons.mp hcmp
    exact insertSorted_pairwise le htrans (fun b hb => ha b ((sortBy_perm le l).mem_iff.mp hb)) (ih hl)

end InsertionSort

/-! ## The queued list and the dispatcher's wafer -/

theorem mem_queuedList (s : State) (i : Nat) (e : Entry) :
    e ∈ queuedList s i ↔ e ∈ s.table ∧ e.wafer = i ∧ e.state = .queued := by
  rw [queuedList, (sortBy_perm _ _).mem_iff]
  simp

theorem queuedList_pairwise {s : State} {i : Nat}
    (harrival : ∀ e ∈ s.table, ∀ f ∈ s.table, e.wafer = i → f.wafer = i → e ≠ f → e.arrival ≠ f.arrival)
    (hnodup : s.table.Nodup) : (queuedList s i).Pairwise fun a b => comesBefore a b = true := by
  refine sortBy_pairwise comesBefore (fun _ _ _ => comesBefore_trans) ?_
  refine (hnodup.filter _).imp_of_mem fun {a b} ha hb hne => ?_
  simp only [List.mem_filter, Bool.and_eq_true, beq_iff_eq] at ha hb
  obtain ⟨haTable, haWafer, -⟩ := ha
  obtain ⟨hbTable, hbWafer, -⟩ := hb
  exact comesBefore_total_of_arrival_ne (harrival a haTable b hbTable haWafer hbWafer hne)

/-- The dispatcher makes a take for no wafer but the one on the stage (R92). -/
theorem stageWafer_of_dispatchWafer {s : State} {i : Nat} (h : dispatchWafer s = some i) : stageWafer s = some i := by
  unfold dispatchWafer at h
  split at h
  case isTrue =>
    obtain ⟨hstage, -⟩ := Option.filter_eq_some_iff.mp h
    exact hstage
  case isFalse => contradiction

/-- Settles O37: `comesBefore` compares `reviewKey`, of a linear order; two entries tie in it only with one arrival
number, so that the insertion sort orders the entries of a wafer. -/
theorem reviewOrder : Obligations.ReviewOrder :=
  ⟨comesBefore_iff,
    fun _ _ => comesBefore_total_of_arrival_ne,
    fun _ _ => comesBefore_asymm,
    fun _ _ _ => comesBefore_trans,
    fun s i harrival hnodup => ⟨mem_queuedList s i, queuedList_pairwise harrival hnodup⟩,
    fun _ _ => stageWafer_of_dispatchWafer⟩

end Sys2Proof.Machine
end

-- ==== Proofs: the offset sum of a wafer's accumulators (R148) ====
section
namespace Sys2Proof.Machine

/-! ## What one entry adds -/

/-- What R148 adds to the offset sum for an entry handed over. -/
def addedOffset (e : Entry) : Nat :=
  match e.state, e.result with
  | .done, some r => r.offset.x.natAbs + r.offset.y.natAbs
  | _, _ => 0

theorem addedOffset_of_done {e : Entry} {r : ResultPart} (hdone : e.state = .done) (hresult : e.result = some r) :
    addedOffset e = r.offset.x.natAbs + r.offset.y.natAbs := by
  simp only [addedOffset, hdone, hresult]

theorem addedOffset_eq_zero {e : Entry} (hnone : ∀ r, e.state = .done → e.result = some r → False) :
    addedOffset e = 0 := by
  unfold addedOffset
  split
  case h_1 r hdone hresult => exact (hnone r hdone hresult).elim
  case h_2 => rfl

@[simp] theorem countTerminal_offsetSum (st : EntryState) (a : WaferAcc) :
    (countTerminal st a).offsetSum = a.offsetSum := by
  cases st <;> rfl

@[simp] theorem countFlags_offsetSum (v : Option VisitPart) (a : WaferAcc) :
    (countFlags v a).offsetSum = a.offsetSum := by
  cases v <;> rfl

theorem countResult_offsetSum (e : Entry) (a : WaferAcc) :
    (countResult e.state e.result a).offsetSum = a.offsetSum + addedOffset e := by
  unfold countResult
  split
  case h_1 hdone hresult => rw [addedOffset_of_done hdone hresult, Nat.add_assoc]
  case h_2 hnone => rw [addedOffset_eq_zero hnone, Nat.add_zero]

/-- Of the three counting steps of a hand-over (R147, R148) only the last touches the offset sum. -/
theorem countEntry_offsetSum (e : Entry) (a : WaferAcc) :
    (countEntry e a).offsetSum = a.offsetSum + addedOffset e := by
  rw [countEntry, countResult_offsetSum, countFlags_offsetSum, countTerminal_offsetSum]

/-! ## What a wafer's entries add together -/

theorem foldl_countEntry_offsetSum (l : List Entry) (a : WaferAcc) :
    (l.foldl (fun a e => countEntry e a) a).offsetSum = a.offsetSum + (l.map addedOffset).sum := by
  induction l generalizing a with
  | nil => rfl
  | cons e l ih => rw [List.foldl_cons, ih, countEntry_offsetSum, List.map_cons, List.sum_cons, Nat.add_assoc]

theorem addedOffset_le {e : Entry} {b : Nat}
    (hbound : ∀ r, e.result = some r → r.offset.x.natAbs ≤ b ∧ r.offset.y.natAbs ≤ b) : addedOffset e ≤ b + b := by
  unfold addedOffset
  split
  case h_1 r _ hresult =>
    obtain ⟨hx, hy⟩ := hbound r hresult
    exact Nat.add_le_add hx hy
  case h_2 => exact Nat.zero_le _

theorem sum_addedOffset_le {l : List Entry} {b : Nat}
    (hbound : ∀ e ∈ l, ∀ r, e.result = some r → r.offset.x.natAbs ≤ b ∧ r.offset.y.natAbs ≤ b) :
    (l.map addedOffset).sum ≤ l.length * (b + b) := by
  have hle : ∀ n ∈ l.map addedOffset, n ≤ b + b := List.forall_mem_map.mpr fun e he => addedOffset_le (hbound e he)
  simpa using List.sum_le_card_nsmul (l.map addedOffset) (b + b) hle

/-- Settles O60: a hand-over adds `addedOffset` of its entry, and 1,024 entries that each add at most twice 2^31 add at
most 2^42 to the zero of a new wafer. -/
theorem offsetSum : Obligations.OffsetSum := by
  refine ⟨fun e a => ⟨fun r hdone hresult => ?done, fun hstate => ?other⟩, fun l hlength hbound => ?bound⟩
  case done => rw [countEntry_offsetSum, addedOffset_of_done hdone hresult, Nat.add_assoc]
  case other => rw [countEntry_offsetSum, addedOffset_eq_zero fun _ hdone _ => hstate hdone, Nat.add_zero]
  case bound =>
    calc (l.foldl (fun a e => countEntry e a) WaferAcc.zero).offsetSum
        = 0 + (l.map addedOffset).sum := foldl_countEntry_offsetSum l WaferAcc.zero
      _ = (l.map addedOffset).sum := Nat.zero_add _
      _ ≤ l.length * (2 ^ 31 + 2 ^ 31) := sum_addedOffset_le hbound
      _ ≤ 1024 * (2 ^ 31 + 2 ^ 31) := Nat.mul_le_mul_right _ hlength
      _ = 2 ^ 42 := by norm_num

end Sys2Proof.Machine
end

-- ==== Proofs: the invariant of the part, unit by unit (R14, R69, R166, R168, R176, R183) ====
section
namespace Sys2Proof.Machine

/-! ## The invariant without the planner -/

/-- `GoodState` but for the planner run, which is due within a step and never between steps (log 9). -/
structure GoodUnits (s : State) : Prop where
  queue : QueueBounded s
  memory : MemoryCanonical s
  wafers : TableOfWafers s
  table : RevisitTable s
  page : PageClear s
  copies : CopiesComplete s

theorem GoodState.units {s : State} (h : GoodState s) : GoodUnits s :=
  ⟨h.queue, h.memory, h.wafers, h.table, h.page, h.copies⟩

theorem GoodUnits.goodState {s : State} (h : GoodUnits s) (hrun : NoRunDue s) : GoodState s :=
  ⟨h.queue, h.memory, h.wafers, h.table, h.page, h.copies, hrun⟩

/-! ## The revisit table by its keys (R69) -/

theorem entriesHeld_eq_countP_keys (s : State) (i : Nat) :
    entriesHeld s i = (keysOf s).countP fun k => k.2.1 == i := by
  rw [entriesHeld, keysOf, List.countP_map]
  rfl

theorem table_length_eq_keys (s : State) : s.table.length = (keysOf s).length := by
  rw [keysOf, List.length_map]

theorem table_indices_eq_keys (s : State) : s.table.map (·.index) = (keysOf s).map (·.1) := by
  rw [keysOf, List.map_map]
  rfl

theorem table_ids_eq_keys (s : State) : (s.table.map fun e => (e.wafer, e.defectId)) = (keysOf s).map (·.2) := by
  rw [keysOf, List.map_map]
  rfl

/-- Freeing entries, or changing what is no key of them, keeps the revisit table within its bounds. -/
theorem RevisitTable.sublist {s t : State} (h : RevisitTable s) (hkeys : (keysOf t).Sublist (keysOf s)) :
    RevisitTable t where
  inPlaces := by
    have hs := h.inPlaces
    rw [table_length_eq_keys] at hs ⊢
    exact hkeys.length_le.trans hs
  perWafer i := by
    have hs := h.perWafer i
    rw [entriesHeld_eq_countP_keys] at hs ⊢
    exact (hkeys.countP_le (p := fun k => k.2.1 == i)).trans hs
  places := by
    have hs := h.places
    rw [table_indices_eq_keys] at hs ⊢
    exact hs.sublist (hkeys.map _)
  ids := by
    have hs := h.ids
    rw [table_ids_eq_keys] at hs ⊢
    exact hs.sublist (hkeys.map _)

/-! ## Updates that keep the invariant -/

/-- The invariant of the units rests on the length of the job queue, the zones, the held slots, memory, the number of
wafer records, the keys of the entries and the lengths of the copies, and on nothing else. -/
theorem GoodUnits.of_parts {s t : State} (h : GoodUnits s) (hqueue : depth s ≤ 16 → depth t ≤ 16)
    (hmem : Memory.wf s.mem = true → Memory.wf t.mem = true) (hwafers : t.wafers.length = s.wafers.length)
    (htable : (keysOf t).Sublist (keysOf s)) (hzones : t.path.zones = s.path.zones)
    (hheld : ∀ a ∈ t.path.held, a ∈ s.path.held) (hargs : t.cmd.args.length = s.cmd.args.length)
    (hparams : t.cmd.paramRaw.length = s.cmd.paramRaw.length) : GoodUnits t where
  queue := hqueue h.queue
  memory := hmem h.memory
  wafers := hwafers.trans h.wafers
  table := h.table.sublist htable
  page := ⟨by rw [hzones]; exact h.page.zones, fun a ha => h.page.held a (hheld a ha)⟩
  copies := ⟨hargs.trans h.copies.1, hparams.trans h.copies.2⟩

/-- The operations of the units keep the invariant. -/
theorem Keeps.good {s t : State} (k : Keeps s t) (h : GoodUnits s) : GoodUnits t :=
  h.of_parts k.bounded (by rw [k.mem]; exact id) k.wafers k.table k.zones (by rw [k.held]; exact fun _ => id)
    (by rw [k.args]) (by rw [k.paramRaw])

/-- A change of the job queue and of memory alone. -/
theorem GoodUnits.of_queue {s t : State} (h : GoodUnits s) (hqueue : depth t ≤ 16) (hmem : Memory.wf t.mem = true)
    (hwafers : t.wafers = s.wafers) (htable : t.table = s.table) (hzones : t.path.zones = s.path.zones)
    (hheld : t.path.held = s.path.held) (hcmd : t.cmd = s.cmd) : GoodUnits t :=
  h.of_parts (fun _ => hqueue) (fun _ => hmem) (by rw [hwafers]) (by rw [keysOf, htable]; exact .refl _) hzones
    (by rw [hheld]; exact fun _ => id) (by rw [hcmd]) (by rw [hcmd])

theorem noteWait_keeps_units {s : State} (h : GoodUnits s) : GoodUnits (noteWait s) :=
  h.of_queue h.queue h.memory rfl rfl rfl rfl rfl

theorem forward_good {s : State} (a : Nat) (d : Word) (e : BitVec 4) (h : GoodUnits s) : GoodUnits (forward a d e s) :=
  h.of_queue h.queue (forward_wf a d e s h.memory) rfl rfl rfl rfl rfl

/-! ## The job queue (R183, R184) -/

theorem mayTakePlace_iff (s : State) (p : Producer) :
    mayTakePlace s p = true ↔ depth s < 16 ∧ (s.path.waiters = [] ∨ s.path.waiters.head? = some p) := by
  rw [mayTakePlace, Bool.and_eq_true, decide_eq_true_eq]
  refine and_congr Iff.rfl ?_
  cases s.path.waiters <;> simp

theorem depth_lt_of_mayTakePlace {s : State} {p : Producer} (h : mayTakePlace s p = true) : depth s < 16 :=
  ((mayTakePlace_iff s p).mp h).1

theorem depth_endWait (s : State) (p : Producer) : depth (endWait p s) = depth s := rfl

@[simp] theorem finishHead_cmd (s : State) : (finishHead s).cmd = s.cmd := by unfold finishHead; split <;> rfl
@[simp] theorem finishHead_lots (s : State) : (finishHead s).lots = s.lots := by unfold finishHead; split <;> rfl
@[simp] theorem finishHead_wafers (s : State) : (finishHead s).wafers = s.wafers := by unfold finishHead; split <;> rfl
@[simp] theorem finishHead_handling (s : State) : (finishHead s).handling = s.handling := by
  unfold finishHead; split <;> rfl
@[simp] theorem finishHead_table (s : State) : (finishHead s).table = s.table := by unfold finishHead; split <;> rfl
@[simp] theorem finishHead_visit (s : State) : (finishHead s).visit = s.visit := by unfold finishHead; split <;> rfl
@[simp] theorem finishHead_focus (s : State) : (finishHead s).focus = s.focus := by unfold finishHead; split <;> rfl
@[simp] theorem finishHead_guard (s : State) : (finishHead s).guard = s.guard := by unfold finishHead; split <;> rfl
@[simp] theorem finishHead_report (s : State) : (finishHead s).report = s.report := by unfold finishHead; split <;> rfl
@[simp] theorem finishHead_jobs (s : State) : (finishHead s).path.jobs = s.path.jobs.tail := by
  unfold finishHead; split <;> simp [*]
@[simp] theorem finishHead_mode (s : State) : (finishHead s).path.mode = s.path.mode := by
  unfold finishHead; split <;> rfl
@[simp] theorem finishHead_zones (s : State) : (finishHead s).path.zones = s.path.zones := by
  unfold finishHead; split <;> rfl
@[simp] theorem finishHead_held (s : State) : (finishHead s).path.held = s.path.held := by
  unfold finishHead; split <;> rfl

@[simp] theorem depth_finishHead (s : State) : depth (finishHead s) = depth s - 1 := by simp [depth]

theorem finishHead_good {s : State} (h : GoodUnits s) : GoodUnits (finishHead s) :=
  h.of_queue (by rw [depth_finishHead]; exact (Nat.sub_le _ _).trans h.queue) (finishHead_wf s h.memory)
    (by simp) (by simp) (by simp) (by simp) (by simp)

/-- A completion that finds its job leaves a place in the queue. -/
theorem depth_finishHead_lt {s : State} {k : JobKind} (h : GoodUnits s) (hk : headKind s = some k) :
    depth (finishHead s) < 16 := by
  obtain ⟨-, j, js, hjobs, -⟩ := (headKind_eq_some s k).mp hk
  have hq := h.queue
  simp only [QueueBounded, depth, finishHead_jobs, hjobs, List.length_cons, List.tail_cons] at hq ⊢
  omega

theorem idleBurst_good {s : State} (h : GoodUnits s) : GoodUnits (idleBurst s) := by
  have hmem := idleBurst_wf s h.memory
  unfold idleBurst at hmem ⊢
  split at hmem
  case h_1 k b b' bs got js hjobs =>
    split at hmem
    case isTrue hbus =>
      rw [if_pos hbus]
      refine h.of_queue ?_ hmem rfl rfl rfl rfl rfl
      have hq := h.queue
      simpa [QueueBounded, depth, hjobs] using hq
    case isFalse hbus => rw [if_neg hbus]; exact h
  case h_2 => exact h

end Sys2Proof.Machine
end

-- ==== Proofs: the places of the revisit table (R69, R72, R73) ====
section
namespace Sys2Proof.Machine

/-! ## The lowest free place -/

/-- `lowestFree` from `n` answers the first place from `n` upward that no entry has, at most one place further for each
entry. -/
theorem lowestFree_spec {l : List Entry} {n : Nat} (hrise : (l.map (·.index)).Pairwise (· < ·))
    (hfrom : ∀ e ∈ l, n ≤ e.index) :
    n ≤ lowestFree l n ∧ lowestFree l n ≤ n + l.length ∧ lowestFree l n ∉ l.map (·.index) ∧
      ∀ k, n ≤ k → k < lowestFree l n → k ∈ l.map (·.index) := by
  induction l generalizing n with
  | nil => exact ⟨le_rfl, le_rfl, List.not_mem_nil, fun k hk hlt => absurd hlt (Nat.not_lt.mpr hk)⟩
  | cons e l ih =>
    rw [List.map_cons, List.pairwise_cons] at hrise
    obtain ⟨hlt, hrise⟩ := hrise
    obtain ⟨hen, hln⟩ := List.forall_mem_cons.mp hfrom
    unfold lowestFree
    split
    case isTrue heq =>
      have hnext : ∀ x ∈ l, n + 1 ≤ x.index := fun x hx => by
        have := hlt x.index (List.mem_map_of_mem hx)
        omega
      obtain ⟨hge, hle, hfree, htaken⟩ := ih hrise hnext
      refine ⟨by omega, by rw [List.length_cons]; omega, ?_, fun k hk hkl => ?_⟩
      · rw [List.map_cons, List.mem_cons, not_or]
        exact ⟨by omega, hfree⟩
      · rw [List.map_cons, List.mem_cons]
        by_cases hkn : k = n
        · exact .inl (by omega)
        · exact .inr (htaken k (by omega) hkl)
    case isFalse hne =>
      refine ⟨le_rfl, Nat.le_add_right _ _, ?_, fun k hk hkl => by omega⟩
      rw [List.map_cons, List.mem_cons, not_or]
      exact ⟨fun h => hne h.symm, fun hmem => by have := hlt n hmem; omega⟩

theorem entryAt_eq_none_iff (s : State) (i : Nat) : entryAt s i = none ↔ i ∉ s.table.map (·.index) := by
  rw [entryAt, List.find?_eq_none]
  simp

/-- Settles O36: `lowestFree_spec`, read from place 0. -/
theorem lowestFreePlace : Obligations.LowestFreePlace := by
  intro s htable hroom n
  obtain ⟨-, hle, hfree, htaken⟩ := lowestFree_spec htable.places (n := 0) fun _ _ => Nat.zero_le _
  refine ⟨by omega, (entryAt_eq_none_iff s n).mpr hfree, fun k hk hnone => ?_⟩
  exact (entryAt_eq_none_iff s k).mp hnone (htaken k (Nat.zero_le _) hk)

/-! ## A new entry -/

/-- An entry in a free place, with a new defect id of a wafer that has a share left, keeps the revisit table within its
bounds (R72, R73). -/
theorem RevisitTable.insert {s t : State} {e : Entry} (h : RevisitTable s)
    (htable : t.table = insertSorted (fun a b => decide (a.index ≤ b.index)) e s.table)
    (hroom : s.table.length < 2048) (hshare : entriesHeld s e.wafer < 1024)
    (hfree : e.index ∉ s.table.map (·.index)) (hid : (e.wafer, e.defectId) ∉ s.table.map fun x => (x.wafer, x.defectId)) :
    RevisitTable t := by
  have hperm : t.table.Perm (e :: s.table) := by rw [htable]; exact insertSorted_perm _ e s.table
  constructor
  case inPlaces => rw [hperm.length_eq, List.length_cons]; omega
  case perWafer =>
    intro i
    have hs := h.perWafer i
    rw [entriesHeld] at hs hshare ⊢
    rw [hperm.countP_eq, List.countP_cons]
    split
    case isTrue hi => rw [beq_iff_eq] at hi; subst hi; omega
    case isFalse => omega
  case places =>
    have hle : t.table.Pairwise fun a b => a.index ≤ b.index := by
      have hsorted := insertSorted_pairwise (fun a b : Entry => decide (a.index ≤ b.index)) (a := e) (l := s.table)
        (fun _ _ _ hab hbc => by simp only [decide_eq_true_eq] at *; exact hab.trans hbc)
        (fun b _ => by simp only [decide_eq_true_eq]; exact Nat.le_total _ _)
        ((List.pairwise_map.mp h.places).imp fun hlt => decide_eq_true (Nat.le_of_lt hlt))
      rw [htable]
      exact hsorted.imp of_decide_eq_true
    have hne : (t.table.map (·.index)).Nodup := by
      rw [(hperm.map _).nodup_iff, List.map_cons, List.nodup_cons]
      exact ⟨hfree, h.places.imp Nat.ne_of_lt⟩
    rw [List.pairwise_map]
    exact (hle.and (List.pairwise_map.mp hne)).imp fun hab => Nat.lt_of_le_of_ne hab.1 hab.2
  case ids =>
    rw [(hperm.map _).nodup_iff, List.map_cons, List.nodup_cons]
    exact ⟨hid, h.ids⟩

/-- What an accepted intake record has passed (R72). -/
theorem intakeAnswer_accepted {s : State} {r : IntakeRecord} {n : Nat} (h : intakeAnswer s r = (.accepted, n)) :
    entryOf s r.wafer r.defectId = none ∧ entriesHeld s r.wafer < 1024 ∧ s.table.length < 2048 ∧
      n = lowestFree s.table 0 := by
  unfold intakeAnswer at h
  split at h
  case isTrue => cases h
  split at h
  case h_1 => cases h
  split at h
  case isTrue => cases h
  unfold capacityAnswer at h
  split at h
  case h_1 => cases h
  case h_2 hnone =>
    split at h
    case isTrue => cases h
    split at h
    case isTrue => cases h
    case isFalse hshare hroom =>
      simp only [Config.waferEntries, Config.tablePlaces] at hshare hroom
      cases h
      exact ⟨hnone, by omega, by omega, rfl⟩

theorem joinEntry_good {s : State} {r : IntakeRecord} {n : Nat} (h : GoodUnits s)
    (hans : intakeAnswer s r = (.accepted, n)) : GoodUnits (joinEntry r n s) := by
  obtain ⟨hnew, hshare, hroom, rfl⟩ := intakeAnswer_accepted hans
  obtain ⟨-, -, hfree, -⟩ := lowestFree_spec h.table.places (n := 0) fun _ _ => Nat.zero_le _
  have hid : (r.wafer, r.defectId) ∉ s.table.map fun x => (x.wafer, x.defectId) := by
    rw [entryOf, List.find?_eq_none] at hnew
    intro hmem
    obtain ⟨x, hx, heq⟩ := List.mem_map.mp hmem
    rw [Prod.mk.injEq] at heq
    exact hnew x hx (by simp [heq])
  have hjoined : GoodUnits { s with
      table := insertSorted (fun a b => decide (a.index ≤ b.index))
        (newEntry r (lowestFree s.table 0) (nextArrivalOf s r.wafer)) s.table } :=
    ⟨h.queue, h.memory, h.wafers, h.table.insert rfl hroom hshare hfree hid, ⟨h.page.zones, h.page.held⟩, h.copies⟩
  have hcounted := (updWafer_keeps _ r.wafer countAccepted).good hjoined
  unfold joinEntry
  dsimp only
  split
  · exact (dispatch_keeps _).good hcounted
  · exact hcounted

end Sys2Proof.Machine
end

-- ==== Proofs: what the commands, and the writes to the cells, keep (R7 to R11, R18, R30, R66, R84, R109, R110, R172) ====
section
namespace Sys2Proof.Machine

/-! ## The commands on the units -/

section CommandsKeep
variable (s : State)

/-- The code shown and the LOT_START in progress are no part of what `Keeps` speaks of. -/
theorem status_keeps (c : CommandCode) (r : Option LotRequest) :
    Keeps s { s with cmd := { s.cmd with code := c, lotStart := r } } := by
  constructor <;> first | rfl | exact ⟨[], by simp⟩ | exact id | (intro _; rfl)

theorem answer_keeps (c : CommandCode) : Keeps s (answer c s) := status_keeps s c s.cmd.lotStart

theorem openLotStart_keeps : Keeps s (openLotStart s) := status_keeps s s.cmd.code _

theorem closeLotStart_keeps : Keeps s (closeLotStart s) := status_keeps s s.cmd.code none

theorem queueLayoutRead_keeps (a3 : Word) : Keeps s (queueLayoutRead a3 s) := by
  unfold queueLayoutRead
  split
  case h_1 => exact .refl s
  case h_2 =>
    split
    case isTrue hplace =>
      have hdepth : depth s < 16 := depth_lt_of_mayTakePlace hplace
      exact (endWait_keeps s _).trans (pushJob_keeps _ _ hdepth)
    case isFalse => exact beginWait_keeps s _

theorem cmdLotStart_keeps : Keeps s (cmdLotStart s) := by
  unfold cmdLotStart
  split
  · exact answer_keeps s _
  · exact ((openLotStart_keeps s).trans (answer_keeps _ _)).trans (queueLayoutRead_keeps _ _)

theorem holdActive_keeps : Keeps s (holdActive s) := by
  unfold holdActive
  split
  · exact .refl s
  · split
    · exact (setLotState_keeps s _ _).trans (postEvent_keeps _ _ _ _ _)
    · exact .refl s

theorem cmdLotHold_keeps : Keeps s (cmdLotHold s) := by
  unfold cmdLotHold
  split
  · exact answer_keeps s _
  · exact (answer_keeps s _).trans (holdActive_keeps _)

theorem releaseLots_keeps : Keeps s (releaseLots s) := by
  unfold releaseLots
  split
  · exact Keeps.after (wantPlan_keeps _) ⟨rfl, rfl, rfl, rfl, rfl, rfl, rfl, rfl, .refl _⟩
  · exact .refl s

theorem cmdLotRelease_keeps : Keeps s (cmdLotRelease s) := by
  unfold cmdLotRelease
  split
  · exact answer_keeps s _
  · exact (answer_keeps s _).trans (releaseLots_keeps _)

theorem abortActive_keeps : Keeps s (abortActive s) := by
  unfold abortActive
  split
  · exact .refl s
  · split
    · exact abortLot_keeps s _
    · exact .refl s

theorem abortPending_keeps : Keeps s (abortPending s) := by
  unfold abortPending
  split
  · exact .refl s
  · split
    · exact abortLot_keeps s _
    · exact .refl s

theorem cmdLotAbort_keeps : Keeps s (cmdLotAbort s) := by
  have hfirst := (answer_keeps s .accepted).trans (abortActive_keeps _)
  unfold cmdLotAbort
  dsimp only
  split
  · exact answer_keeps s _
  · split
    · exact hfirst.trans (abortPending_keeps _)
    · exact hfirst

theorem cmdWaferAbort_keeps : Keeps s (cmdWaferAbort s) := by
  unfold cmdWaferAbort
  split
  · exact answer_keeps s _
  · split
    · exact (answer_keeps s _).trans (abortWafer_keeps _ _)
    · exact answer_keeps s _

theorem endReview_keeps (i : Nat) (w : Wafer) : Keeps s (endReview i w s) := by
  unfold endReview
  dsimp only
  split
  · exact .refl s
  · split
    · exact (updWafer_keeps s _ _).trans (dispatch_keeps _)
    · exact updWafer_keeps s _ _

theorem cmdReviewEnd_keeps : Keeps s (cmdReviewEnd s) := by
  unfold cmdReviewEnd
  split
  · exact answer_keeps s _
  · split
    · exact answer_keeps s _
    · exact (answer_keeps s _).trans (endReview_keeps _ _ _)

theorem cmdReviewSuspend_keeps : Keeps s (cmdReviewSuspend s) := (visit_keeps s _).trans (answer_keeps _ _)

theorem cmdReviewResume_keeps : Keeps s (cmdReviewResume s) :=
  ((visit_keeps s _).trans (answer_keeps _ _)).trans (dispatch_keeps _)

theorem cmdRealign_keeps : Keeps s (cmdRealign s) := by
  unfold cmdRealign
  split
  · exact answer_keeps s _
  · split
    · exact answer_keeps s _
    · split
      · exact answer_keeps s _
      · exact (answer_keeps s _).trans (startRealign_keeps _ _ _)

theorem cmdRecoverWafer_keeps : Keeps s (cmdRecoverWafer s) := by
  unfold cmdRecoverWafer
  split
  · exact answer_keeps s _
  · split
    · split
      · exact answer_keeps s _
      · exact (answer_keeps s _).trans (recover_keeps _ _ _)
    · exact answer_keeps s _

theorem requestReload_keeps : Keeps s (requestReload s) := by
  unfold requestReload
  split
  · exact beginReload_keeps s
  · constructor <;> first | rfl | exact ⟨[], by simp⟩ | exact id | (intro _; rfl)

theorem cmdMapReload_keeps : Keeps s (cmdMapReload s) := (answer_keeps s _).trans (requestReload_keeps _)

/-- Every command but GUARD_CLEAR and SOFT_RESET keeps what the units keep. -/
theorem carryOut_keeps {value : Nat} (hclear : value ≠ 10) (hreset : value ≠ 13) : Keeps s (carryOut value s) := by
  unfold carryOut
  split
  case h_1 => exact cmdLotStart_keeps s
  case h_2 => exact cmdLotHold_keeps s
  case h_3 => exact cmdLotRelease_keeps s
  case h_4 => exact cmdLotAbort_keeps s
  case h_5 => exact cmdWaferAbort_keeps s
  case h_6 => exact cmdReviewEnd_keeps s
  case h_7 => exact cmdReviewSuspend_keeps s
  case h_8 => exact cmdReviewResume_keeps s
  case h_9 => exact cmdRealign_keeps s
  case h_10 => exact absurd rfl hclear
  case h_11 => exact cmdRecoverWafer_keeps s
  case h_12 => exact cmdMapReload_keeps s
  case h_13 => exact absurd rfl hreset
  case h_14 => exact .refl s

end CommandsKeep

/-! ## GUARD_CLEAR and SOFT_RESET -/

/-- The guard is no part of the invariant of the units. -/
theorem GoodUnits.of_guard {s : State} (h : GoodUnits s) (g : Guard) : GoodUnits { s with guard := g } :=
  h.of_queue h.queue h.memory rfl rfl rfl rfl rfl

theorem clearGuard_good {s : State} (h : GoodUnits s) : GoodUnits (clearGuard s) := by
  unfold clearGuard
  refine ((((dispatch_keeps _).trans (refreshOutput_keeps _)).trans (wantPlan_keeps _)).trans
    (releaseEvent_keeps _ _ _)).good ?_
  exact (visit_keeps (setGuard .normal s) _).good (h.of_guard _)

theorem cmdGuardClear_good {s : State} (h : GoodUnits s) : GoodUnits (cmdGuardClear s) := by
  have hok := (answer_keeps s .accepted).good h
  unfold cmdGuardClear
  split
  · exact hok
  · exact hok
  · split
    · exact (answer_keeps s _).good h
    · exact clearGuard_good hok

/-- The end of a soft reset's start: no entry is left, and every record, copy and job is (R89, R191). -/
theorem cmdSoftReset_good {s : State} (h : GoodUnits s) : GoodUnits (cmdSoftReset s) := by
  have hpath : (cmdSoftReset s).path.jobs = s.path.jobs ∧ (cmdSoftReset s).path.zones = s.path.zones ∧
      (cmdSoftReset s).path.held = s.path.held ∧ (cmdSoftReset s).mem = s.mem ∧
      (cmdSoftReset s).wafers = s.wafers.map (Option.map resetWafer) := by
    unfold cmdSoftReset resetRecords resetFocus resetVisit haltMove
    split <;> exact ⟨rfl, rfl, rfl, rfl, rfl⟩
  obtain ⟨hjobs, hzones, hheld, hmem, hwafers⟩ := hpath
  have hcmd : (cmdSoftReset s).cmd.args = s.cmd.args ∧ (cmdSoftReset s).cmd.paramRaw = s.cmd.paramRaw := by
    unfold cmdSoftReset resetRecords resetFocus resetVisit haltMove
    split <;> exact ⟨rfl, rfl⟩
  obtain ⟨hargs, hparams⟩ := hcmd
  refine h.of_parts (fun hq => ?_) (fun hm => ?_) ?_ (List.nil_sublist _) hzones ?_ (by rw [hargs]) (by rw [hparams])
  · rw [depth, hjobs]; exact hq
  · rw [hmem]; exact hm
  · rw [hwafers, List.length_map]
  · rw [hheld]; exact fun _ => id

theorem carryOut_good {s : State} (value : Nat) (h : GoodUnits s) : GoodUnits (carryOut value s) := by
  by_cases hclear : value = 10
  · rw [hclear]; exact cmdGuardClear_good h
  by_cases hreset : value = 13
  · rw [hreset]; exact cmdSoftReset_good h
  exact (carryOut_keeps s hclear hreset).good h

/-- A change of the command unit that leaves the copies complete. -/
theorem GoodUnits.of_cmd {s : State} (h : GoodUnits s) (c : Command) (hargs : c.args.length = s.cmd.args.length)
    (hparams : c.paramRaw.length = s.cmd.paramRaw.length) : GoodUnits { s with cmd := c } :=
  h.of_parts id id rfl (.refl _) rfl (fun _ => id) hargs hparams

theorem takeCommand_good {s : State} (value : Byte) (h : GoodUnits s) : GoodUnits (takeCommand value s) := by
  have hcounted : GoodUnits (countCommand value s) := h.of_cmd _ rfl rfl
  unfold takeCommand
  dsimp only
  split
  · exact (answer_keeps _ _).good hcounted
  · exact carryOut_good _ hcounted

/-! ## The cells -/

theorem clampEvent_keeps (s : State) (n : Nat) (raw : Word) : Keeps s (clampEvent n raw s) := by
  unfold clampEvent
  split
  · exact postEvent_keeps s _ _ _ _
  · exact .refl s

/-- A change of the report unit. -/
theorem report_keeps (s : State) (r : ReportUnit) : Keeps s { s with report := r } :=
  Same.keeps (t := { s with report := r }) ⟨rfl, rfl, rfl, rfl, rfl, rfl, rfl, rfl, .refl _⟩

theorem overlayAt_length (l : List Word) (k : Nat) (d : Word) (e : BitVec 4) : (overlayAt l k d e).length = l.length :=
  List.length_modify ..

theorem writeParameter_good {s : State} (n : Nat) (d : Word) (e : BitVec 4) (h : GoodUnits s) :
    GoodUnits (writeParameter n d e s) := by
  have hcopied := h.of_cmd { s.cmd with paramRaw := overlayAt s.cmd.paramRaw n d e } rfl (overlayAt_length _ _ _ _)
  unfold writeParameter
  split
  · exact h
  · dsimp only
    refine (clampEvent_keeps _ _ _).good ?_
    split
    · exact (reclampOutput_keeps _).good hcopied
    · exact hcopied

theorem writeReportConsumer_keeps (s : State) (d : Word) (e : BitVec 4) : Keeps s (writeReportConsumer d e s) := by
  unfold writeReportConsumer
  split
  · exact .refl s
  · dsimp only
    split
    · exact (report_keeps s _).trans (ringTest_keeps _)
    · exact .refl s

theorem writeEventConsumer_good {s : State} (d : Word) (e : BitVec 4) (h : GoodUnits s) :
    GoodUnits (writeEventConsumer d e s) := by
  unfold writeEventConsumer
  split
  · exact h
  · dsimp only
    split
    · exact h.of_cmd _ rfl rfl
    · exact h

theorem watchMapped_good {s : State} (offset : Nat) (d : Word) (e : BitVec 4) (h : GoodUnits s) :
    GoodUnits (watchMapped offset d e s) := by
  unfold watchMapped
  split
  · exact h
  split
  · exact writeEventConsumer_good d e h
  split
  · exact (writeReportConsumer_keeps s d e).good h
  split
  · exact h.of_cmd _ rfl rfl
  split
  · exact writeParameter_good _ d e h
  · exact h

theorem watchCell_good {s : State} (offset : Nat) (d : Word) (e : BitVec 4) (h : GoodUnits s) :
    GoodUnits (watchCell offset d e s) := by
  unfold watchCell
  split
  · exact (requestReload_keeps s).good h
  split
  · unfold writeCommandCell
    split
    · exact takeCommand_good _ h
    · exact h
  split
  · exact h.of_cmd _ (overlayAt_length _ _ _ _) rfl
  split
  · exact h.of_cmd _ rfl rfl
  · exact watchMapped_good offset d e h

theorem watchWrite_good {s : State} (a : Nat) (d : Word) (e : BitVec 4) (h : GoodUnits s) :
    GoodUnits (watchWrite a d e s) := by
  unfold watchWrite
  split
  · exact h
  · exact watchCell_good _ d e h

end Sys2Proof.Machine
end

-- ==== Proofs: what the path unit, the jobs and LOADING keep (R168, R170, R175 to R182) ====
section
namespace Sys2Proof.Machine

/-! ## Slots lie below the configuration page (R168, R175) -/

theorem slotAt_lt {s : State} (h : PageClear s) {a : Nat} {k : ZoneKind} {slot : Nat}
    (hslot : slotAt s a = some (k, slot)) : slot < 0xFFF000 := by
  unfold slotAt at hslot
  obtain ⟨z, hfind, heq⟩ := Option.map_eq_some_iff.mp hslot
  have hmem := List.mem_of_find?_eq_some hfind
  have hcovers := List.find?_some hfind
  obtain ⟨i, -, rfl⟩ := List.mem_map.mp hmem
  simp only [Bool.and_eq_true, Zone.covers, decide_eq_true_eq] at hcovers
  obtain ⟨hkind, hbase, hstop⟩ := hcovers
  have hused : (zoneAt s i).kind ≠ .unused := by
    intro hunused
    rw [hunused] at hkind
    cases hkind
  have hpage := zoneAt_stop s h i hused
  rw [Prod.mk.injEq] at heq
  obtain ⟨-, rfl⟩ := heq
  have := Nat.div_mul_le_self (a - (zoneAt s i).base) 32
  omega

/-- A word is a posting only where it stands in a slot of a zone in force. -/
theorem slotAt_of_natureOf_posting {s : State} {u : UpWord} {k : ZoneKind} {slot : Nat}
    (h : natureOf s u = .posting k slot) : slotAt s u.addr = some (k, slot) := by
  unfold natureOf at h
  split at h
  case h_1 => split at h <;> cases h
  case h_2 =>
    split at h
    case h_1 => cases h
    case h_2 =>
      split at h
      case h_1 hpost =>
        cases h
        unfold postingOf at hpost
        split at hpost
        · exact hpost
        · cases hpost
      case h_2 => cases h

/-- A posting that need not wait finds a queue place. -/
theorem depth_lt_of_posting {s : State} {u : UpWord} {k : ZoneKind} {slot : Nat} (hwait : mustWait s u = false)
    (h : natureOf s u = .posting k slot) : depth s < 16 := by
  simp only [mustWait, Bool.or_eq_false_iff, h, lacksPlace, Bool.not_eq_false'] at hwait
  obtain ⟨⟨-, hplace⟩, -⟩ := hwait
  exact depth_lt_of_mayTakePlace hplace

/-! ## Words of the upstream bus -/

/-- The state of the bus is no part of what a word is. -/
theorem natureOf_takeBus (s : State) (u v : UpWord) : natureOf (takeBus u s) v = natureOf s v := rfl

theorem takeBus_good {s : State} (u : UpWord) (h : GoodUnits s) : GoodUnits (takeBus u s) :=
  h.of_queue h.queue h.memory rfl rfl rfl rfl rfl

theorem takePosting_good {s : State} (k : ZoneKind) {slot : Nat} (d : Word) (h : GoodUnits s) (hdepth : depth s < 16)
    (hslot : slot < 0xFFF000) : GoodUnits (takePosting k slot d s) := by
  have hheld : GoodUnits { s with path := { s.path with held := s.path.held ++ [slot] } } := by
    refine ⟨h.queue, h.memory, h.wafers, h.table.sublist (.refl _), ⟨h.page.zones, fun a ha => ?_⟩, h.copies⟩
    obtain ha | ha := List.mem_append.mp ha
    · exact h.page.held a ha
    · rw [List.mem_singleton.mp ha]; exact hslot
  unfold takePosting
  refine ((endWait_keeps _ _).trans (pushJob_keeps _ _ ?_)).good hheld
  exact hdepth

theorem dropWord_keeps_units {s : State} (i a : Nat) (h : GoodUnits s) : GoodUnits (dropWord i a s) := by
  unfold dropWord reportDrop
  split
  · exact h.of_queue h.queue h.memory rfl rfl rfl rfl rfl
  · exact (postEvent_keeps _ _ _ _ _).good (h.of_queue h.queue h.memory rfl rfl rfl rfl rfl)

theorem serveRead_good {s : State} (a : Nat) (h : GoodUnits s) : GoodUnits (serveRead a s) := by
  unfold serveRead
  split
  · exact h.of_parts id id rfl (.refl _) rfl (fun _ => id) rfl rfl
  · exact h.of_queue h.queue h.memory rfl rfl rfl rfl rfl

theorem serveAccess_good {s : State} (u : UpWord) (h : GoodUnits s) (hwait : mustWait s u = false) :
    GoodUnits (serveAccess u (takeBus u s)) := by
  have hbus := takeBus_good u h
  unfold serveAccess
  split
  · exact serveRead_good _ hbus
  · split
    · exact hbus
    · exact hbus
    · exact dropWord_keeps_units _ _ hbus
    · rename_i hnature
      rw [natureOf_takeBus] at hnature
      exact takePosting_good _ _ (forward_good _ _ _ hbus) (depth_lt_of_posting (s := s) hwait hnature)
        (slotAt_lt h.page (slotAt_of_natureOf_posting hnature))
    · exact watchWrite_good _ _ _ (forward_good _ _ _ hbus)

theorem finish_good {s : State} (h : GoodUnits s) : GoodState (finish s) :=
  ((finish_keeps s).good h).goodState (finish_runDue s)

theorem serveWord_good {s : State} (u : UpWord) (h : GoodUnits s) (hwait : mustWait s u = false) :
    GoodState (serveWord u s) := finish_good (serveAccess_good u h hwait)

/-- A change of the words that wait, of the bus and of the producers that wait. -/
theorem GoodState.of_waiting {s : State} (h : GoodState s) (us : List UpWord) (b : UpBurst) (ps : List Producer) :
    GoodState { s with path := { s.path with upWait := us, upBurst := b, waiters := ps } } :=
  have hunits : GoodUnits { s with path := { s.path with upWait := us, upBurst := b, waiters := ps } } :=
    h.units.of_queue h.queue h.memory rfl rfl rfl rfl rfl
  hunits.goodState h.noRunDue

theorem setWaiting_good {s : State} (us : List UpWord) (h : GoodState s) : GoodState (setWaiting us s) :=
  h.of_waiting us .none _

theorem noteWait_good {s : State} (h : GoodState s) : GoodState (noteWait s) :=
  h.of_waiting s.path.upWait s.path.upBurst _

theorem upstream_good {s : State} (u : UpWord) (h : GoodState s) : GoodState (upstream u s) := by
  unfold upstream
  split
  · split
    · exact setWaiting_good _ h
    · rename_i hwait
      exact serveWord_good u h.units (Bool.eq_false_iff.mpr hwait)
  · exact h.of_waiting _ s.path.upBurst s.path.waiters

theorem upstreamBurst_good {s : State} (us : List UpWord) (h : GoodState s) : GoodState (upstreamBurst us s) := by
  unfold upstreamBurst
  induction us generalizing s with
  | nil => exact h
  | cons u us ih => exact ih (upstream_good u h)

theorem serveWaiting_good {s : State} (us : List UpWord) (h : GoodState s) : GoodState (serveWaiting us s) := by
  induction us generalizing s with
  | nil => exact h.of_waiting [] s.path.upBurst s.path.waiters
  | cons u us ih =>
    unfold serveWaiting
    split
    case isTrue => exact setWaiting_good _ h
    case isFalse hwait =>
      have hrest : GoodState { s with path := { s.path with upWait := us } } :=
        h.of_waiting us s.path.upBurst s.path.waiters
      have hserved : GoodState (serveWord u { s with path := { s.path with upWait := us } }) :=
        serveWord_good u hrest.units (Bool.eq_false_iff.mpr hwait)
      dsimp only
      split
      · exact ih hserved
      · exact noteWait_good hserved

/-! ## Records and jobs -/

theorem headKind_of_fetchedSlot {s : State} {k : ZoneKind} {slot : Nat} {seq : Byte} {last : Bool}
    (h : fetchedSlot s k = some (slot, seq, last)) : headKind s = some (.fetch slot k seq last) := by
  unfold fetchedSlot at h
  split at h
  case h_1 slot' k' seq' last' hhead =>
    split at h
    case isTrue hk => cases h; rw [hhead, hk]
    case isFalse => cases h
  case h_2 => cases h

theorem depth_finishHead_of_fetched {s : State} {k : ZoneKind} {x : Nat × Byte × Bool} (h : GoodUnits s)
    (hx : fetchedSlot s k = some x) : depth (finishHead s) < 16 :=
  depth_finishHead_lt h (headKind_of_fetchedSlot hx)

theorem acceptRecord_keeps {s : State} (slot : Nat) (c : AcceptCode) (seq : Byte) (n : Nat) (h : depth s < 16) :
    Keeps s (acceptRecord slot c seq n s) := pushJob_keeps s _ h

theorem completeIntake_good {s : State} (h : GoodUnits s) : GoodUnits (completeIntake s) := by
  have hdone := finishHead_good h
  unfold completeIntake
  split
  case h_1 => exact h
  case h_2 slot seq last hfetched =>
    split
    case isTrue => exact hdone
    case isFalse =>
      have haccept := fun c n => (acceptRecord_keeps slot c seq n (depth_finishHead_of_fetched h hfetched)).good hdone
      unfold answerIntake
      dsimp only
      split
      case isTrue hc => exact joinEntry_good (haccept _ _) (Prod.ext hc rfl)
      case isFalse => exact haccept _ _

theorem takeResult_keeps (s : State) (v : Visit) (r : ResultRecord) : Keeps s (takeResult v r s) :=
  ((visit_keeps s _).trans (closeEntry_keeps _ _ _ _ _)).trans (endVisit_keeps _ _ _)

theorem completeResult_good {s : State} (h : GoodUnits s) : GoodUnits (completeResult s) := by
  have hdone := finishHead_good h
  unfold completeResult
  split
  case h_1 => exact h
  case h_2 slot seq last hfetched =>
    split
    case isTrue => exact hdone
    case isFalse =>
      have haccept := fun c n => acceptRecord_keeps slot c seq n (depth_finishHead_of_fetched h hfetched)
      unfold answerResult
      split
      · exact (haccept _ _).good hdone
      · split
        · exact ((haccept _ _).trans (takeResult_keeps _ _ _)).good hdone
        · exact (haccept _ _).good hdone

theorem closeOnLast_keeps (s : State) (r : MarkRecord) (c : AcceptCode) (last : Bool) :
    Keeps s (closeOnLast r c last s) := by
  unfold closeOnLast
  split
  · exact (closeAttempt_keeps s _).trans (dispatch_keeps _)
  · exact .refl s

theorem completeMark_good {s : State} (h : GoodUnits s) : GoodUnits (completeMark s) := by
  have hdone := finishHead_good h
  unfold completeMark
  split
  case h_1 => exact h
  case h_2 slot seq last hfetched =>
    split
    case isTrue => exact hdone
    case isFalse =>
      have haccept := fun c n => acceptRecord_keeps slot c seq n (depth_finishHead_of_fetched h hfetched)
      unfold answerMark
      dsimp only
      refine (closeOnLast_keeps _ _ _ _).good ?_
      split
      · exact ((haccept _ _).trans (updWafer_keeps _ _ _)).good hdone
      · exact (haccept _ _).good hdone

theorem completeAccept_good {s : State} (h : GoodUnits s) : GoodUnits (completeAccept s) := by
  unfold completeAccept
  split
  · refine noteWait_keeps_units ?_
    exact (finishHead_good h).of_parts id id rfl (.refl _) rfl (fun a ha => (List.mem_filter.mp ha).1) rfl rfl
  · exact h

theorem completeEvent_good {s : State} (h : GoodUnits s) : GoodUnits (completeEvent s) := by
  unfold completeEvent
  split
  · exact finishHead_good h
  · exact h

/-- The entries of a wafer whose report is written are freed (R87). -/
theorem waferReportWritten_keeps (s : State) (i : Nat) : Keeps s (waferReportWritten i s) := by
  have hfreed : Keeps s { s with table := s.table.filter fun e => e.wafer != i } :=
    Same.keeps ⟨rfl, rfl, rfl, rfl, rfl, rfl, rfl, rfl, (List.filter_sublist ..).map _⟩
  unfold waferReportWritten
  dsimp only
  split
  · exact hfreed.trans (updWafer_keeps _ _ _)
  · exact (hfreed.trans (updWafer_keeps _ _ _)).trans (requestTest_keeps _ _)

theorem handReport_keeps (s : State) (t : ReportTag) : Keeps s (handReport t s) := by
  unfold handReport
  split
  · exact .refl s
  · split
    · exact waferReportWritten_keeps s _
    · unfold lotReportWritten
      split
      · exact .refl s
      · exact endLot_keeps s _
    · exact focus_keeps s _ rfl

theorem reportWritten_keeps (s : State) (r : ReportJob) (t : ReportTag) : Keeps s (reportWritten r t s) :=
  ((report_keeps s _).trans (postEvent_keeps _ _ _ _ _)).trans (handReport_keeps _ _)

theorem completeReport_good {s : State} (h : GoodUnits s) : GoodUnits (completeReport s) := by
  unfold completeReport
  split
  · split
    · exact ((reportWritten_keeps _ _ _).trans (ringTest_keeps _)).good (finishHead_good h)
    · exact (ringTest_keeps _).good (finishHead_good h)
  · exact h

theorem queueReport_keeps (s : State) : Keeps s (queueReport s) := by
  unfold queueReport
  split
  case h_1 => exact .refl s
  case h_2 =>
    split
    case isTrue hplace =>
      have hdepth : depth s < 16 := depth_lt_of_mayTakePlace hplace
      exact (endWait_keeps s _).trans (pushJob_keeps _ _ hdepth)
    case isFalse => exact beginWait_keeps s _

theorem queueWaitingLayout_keeps (s : State) : Keeps s (queueWaitingLayout s) := by
  unfold queueWaitingLayout
  split
  · exact .refl s
  · split
    · exact queueLayoutRead_keeps s _
    · exact .refl s

/-- A LOT_START that is accepted makes 25 records of a port and no other place (R5). -/
theorem acceptLot_keeps (s : State) (r : LotRequest) (p : Port) (m : BitVec 25) (l : Layout) :
    Keeps s (acceptLot r p m l s) := by
  unfold acceptLot
  dsimp only
  refine Keeps.trans (Keeps.trans (Keeps.trans (Keeps.after (postEvent_keeps _ _ _ _ _) ?made)
    (answer_keeps _ _)) (wantPlan_keeps _)) (closingTest_keeps _ _)
  case made => exact ⟨rfl, rfl, rfl, rfl, rfl, rfl, rfl, List.length_mapIdx .., .refl _⟩

theorem decideStart_keeps (s : State) (r : LotRequest) (l : Layout) : Keeps s (decideStart r l s) := by
  unfold decideStart
  split
  · exact answer_keeps s _
  · split
    · exact answer_keeps s _
    · exact acceptLot_keeps s _ _ _ _

theorem completeLayout_good {s : State} (h : GoodUnits s) : GoodUnits (completeLayout s) := by
  unfold completeLayout
  split
  · split
    · exact finishHead_good h
    · exact ((closeLotStart_keeps _).trans (decideStart_keeps _ _ _)).good (finishHead_good h)
  · exact h

/-! ## LOADING -/

theorem beginLoading_good {s : State} (h : GoodUnits s) : GoodUnits (beginLoading s) :=
  h.of_queue (by decide : 2 ≤ 16) h.memory rfl rfl rfl rfl rfl

/-- A map that passes the tests of R168 has no zone that reaches the configuration page. -/
theorem stop_le_of_mapFault_none {count : Nat} {zs : List Zone} (hlength : zs.length = 8)
    (h : mapFault count zs = none) : ∀ z ∈ zs, z.kind ≠ .unused → z.stop ≤ 0xFFF000 := by
  intro z hz hused
  obtain ⟨i, hi, rfl⟩ := List.mem_iff_getElem.mp hz
  have hreach : firstFailing zs reachFails = none := by
    unfold mapFault at h
    split at h
    case isTrue => cases h
    case isFalse =>
      simp only [Option.or_eq_none_iff, Option.map_eq_none_iff] at h
      exact h.2.1
  rw [firstFailing, List.find?_eq_none] at hreach
  have hpass := hreach i (List.mem_range.mpr (hlength ▸ hi))
  have hdesc : descriptor zs i = zs[i] := by simp [descriptor, hi]
  rw [hdesc] at hpass
  simp only [Zone.isUsed, reachFails, Bool.and_eq_true, bne_iff_ne, decide_eq_true_eq, not_and, Nat.not_lt] at hpass
  exact hpass hused

@[simp] theorem driveOutput_path (s : State) (v : Int) : (driveOutput v s).path = s.path := by
  unfold driveOutput; split <;> rfl

@[simp] theorem reclampOutput_path (s : State) : (reclampOutput s).path = s.path := by
  unfold reclampOutput
  split
  · rfl
  · exact driveOutput_path _ _

@[simp] theorem copyParams_path (s : State) (ws : List Word) : (copyParams ws s).path = s.path := by
  unfold copyParams
  dsimp only
  split
  · exact reclampOutput_path _
  · rfl

theorem copyParams_good {s : State} (ws : List Word) (h : GoodUnits s) : GoodUnits (copyParams ws s) := by
  have hcopied : GoodUnits { s with cmd := { s.cmd with
      paramRaw := (List.range 128).map (nth ws), paramsValid := true } } :=
    ⟨h.queue, h.memory, h.wafers, h.table.sublist (.refl _), ⟨h.page.zones, h.page.held⟩, h.copies.1, by simp⟩
  unfold copyParams
  dsimp only
  split
  · exact (reclampOutput_keeps _).good hcopied
  · exact hcopied

theorem setMap_good {s : State} (m : PathMode) {zs : List Zone} (h : GoodUnits s)
    (hzones : ∀ z ∈ zs, z.kind ≠ .unused → z.stop ≤ 0xFFF000) : GoodUnits (setMap m zs s) :=
  ⟨h.queue, h.memory, h.wafers, h.table.sublist (.refl _), ⟨hzones, h.page.held⟩, h.copies⟩

theorem moveReportRing_keeps (s : State) (zs : List Zone) (hdepth : depth s < 16) :
    Keeps s (moveReportRing zs s) := by
  unfold moveReportRing
  dsimp only
  split
  · exact report_keeps s _
  · exact (report_keeps s _).trans (pushJob_keeps _ _ hdepth)

theorem setReportSide_keeps (s : State) (old zs : List Zone) (hdepth : depth s < 16) :
    Keeps s (setReportSide old zs s) := by
  unfold setReportSide
  split
  · exact .refl s
  · exact moveReportRing_keeps s zs hdepth

theorem setEventSide_good {s : State} (old zs : List Zone) (h : GoodUnits s) : GoodUnits (setEventSide old zs s) := by
  unfold setEventSide
  split
  · exact h
  · exact h.of_cmd _ rfl rfl

theorem zonesOfWords_length (ws : List Word) : (zonesOfWords ws).length = 8 := by
  rw [zonesOfWords, List.length_map, List.length_range]

theorem applyMap_good {s : State} (ws : List Word) (h : GoodUnits s) (hdepth : depth s < 16) :
    GoodUnits (applyMap ws s) := by
  unfold applyMap
  split
  case h_1 hvalid =>
    have hmapped := setMap_good .mapped h (stop_le_of_mapFault_none (zonesOfWords_length ws) hvalid)
    have hdepth' : depth (setMap .mapped (zonesOfWords ws) s) < 16 := hdepth
    exact (postEvent_keeps _ _ _ _ _).good
      (setEventSide_good _ _ ((setReportSide_keeps _ _ _ hdepth').good hmapped))
  case h_2 =>
    exact (postEvent_keeps _ _ _ _ _).good (setMap_good .transparent h fun z hz => absurd hz List.not_mem_nil)

theorem clampEvents_keeps (s : State) : Keeps s (clampEvents s) :=
  foldl_keeps s _ (fun t n => clampEvent_keeps t n _) _

/-- The records that a soft reset keeps stand where they stood (R19). -/
theorem buildLotZero_keeps (s : State) : Keeps s (buildLotZero s) := by
  unfold buildLotZero
  dsimp only
  split
  · exact Keeps.after (closingTest_keeps _ _) ⟨rfl, rfl, rfl, rfl, rfl, rfl, rfl, by simp, .refl _⟩
  · exact Same.keeps ⟨rfl, rfl, rfl, rfl, rfl, rfl, rfl, by simp, .refl _⟩

theorem settleHandling_keeps (s : State) : Keeps s (settleHandling s) := by
  unfold settleHandling
  dsimp only
  split
  · exact (handling_keeps s _).trans (setHandling_keeps _ _)
  · exact (handling_keeps s _).trans (idleHandling_keeps _)

theorem completeReset_good {s : State} (h : GoodUnits s) : GoodUnits (completeReset s) := by
  unfold completeReset
  refine ((buildLotZero_keeps _).trans (settleHandling_keeps _)).good ?_
  exact h.of_parts id id rfl (.refl _) rfl (fun _ ha => absurd ha List.not_mem_nil) rfl rfl

theorem depth_of_loadmapsAtHead {s : State} (h : loadmapsAtHead s = true) : 2 ≤ depth s := by
  simp only [loadmapsAtHead, Bool.and_eq_true, beq_iff_eq] at h
  obtain ⟨-, hkinds⟩ := h
  have hlength := congrArg List.length hkinds
  simp only [List.length_map, List.length_take, List.length_cons, List.length_nil] at hlength
  unfold depth
  omega

theorem completeLoading_good {s : State} (h : GoodUnits s) : GoodUnits (completeLoading s) := by
  unfold completeLoading
  split
  case isTrue hhead =>
    have hread := finishHead_good (finishHead_good h)
    have hdepth : depth (finishHead (finishHead s)) < 16 := by
      have hq : depth s ≤ 16 := h.queue
      have htwo := depth_of_loadmapsAtHead hhead
      rw [depth_finishHead, depth_finishHead]
      omega
    have hcopied := copyParams_good (paramWords s) hread
    have hplace : depth (copyParams (paramWords s) (finishHead (finishHead s))) < 16 := by
      rw [depth, copyParams_path]
      exact hdepth
    have hended := (clampEvents_keeps _).good (applyMap_good (mapWords s) hcopied hplace)
    unfold endLoading
    dsimp only
    refine noteWait_keeps_units ?_
    split
    · exact completeReset_good hended
    · exact hended
  case isFalse => exact h

end Sys2Proof.Machine
end

-- ==== Proofs: the rows of the table by what carries them, and the invariant of the part ====
section
namespace Sys2Proof.Machine

/-! ## The rows of the table -/

/-- The word of the upstream bus that a row writes, where the row is a write (R166, R175, R188). -/
def busWord : Instr → Option UpWord
  | .lotStart w => some (commandWrite 1 w)
  | .lotHold w => some (commandWrite 2 w)
  | .lotRelease w => some (commandWrite 3 w)
  | .lotAbort w => some (commandWrite 4 w)
  | .waferAbort w => some (commandWrite 5 w)
  | .reviewEnd w => some (commandWrite 6 w)
  | .reviewSuspend w => some (commandWrite 7 w)
  | .reviewResume w => some (commandWrite 8 w)
  | .realign w => some (commandWrite 9 w)
  | .guardClear w => some (commandWrite 10 w)
  | .recoverWafer w => some (commandWrite 11 w)
  | .mapReload w => some (commandWrite 12 w)
  | .softReset w => some (commandWrite 13 w)
  | .unknownCommand v w => some (commandWrite v w)
  | .mapHeaderWrite w => some (cellWrite 0x000 w)
  | .argumentCellWrite k w => some (cellWrite (0x104 + 4 * k.val) w)
  | .attentionMaskWrite w => some (cellWrite 0x12C w)
  | .eventConsumerIndexWrite w => some (cellWrite 0x130 w)
  | .reportConsumerIndexWrite w => some (cellWrite 0x134 w)
  | .windowSelectWrite w => some (cellWrite 0x138 w)
  | .parameterWrite n w => some (cellWrite (0x200 + 4 * n.val) w)
  | .upstreamWrite index w => some (memoryWrite index w)
  | .posting index w => some (memoryWrite index w)
  | _ => none

/-- What a row does before the planner run that ends its step, where the row is no access of the upstream bus and no
reset. -/
def unitEffect : Instr → Option (State → State)
  | .intakeRecord => some completeIntake
  | .resultRecord => some completeResult
  | .markRecord => some completeMark
  | .acceptJobComplete => some completeAccept
  | .eventJobComplete => some completeEvent
  | .reportJobComplete => some completeReport
  | .layoutReadComplete => some completeLayout
  | .loadmapComplete => some completeLoading
  | .loadingBegin => some fun s => if loadingDue s then beginLoading s else s
  | .reportJobQueued => some queueReport
  | .layoutReadQueued => some queueWaitingLayout
  | .done tag r => some (takeDone tag r)
  | .prealigned wafer n x y => some (takePrealigned wafer.toNat ⟨n, x, y⟩)
  | .prealignFail wafer => some (takePrealignFail wafer.toNat)
  | .slotmap p f => some (takeSlotmap p f)
  | .port p a b => some (takePort p a b)
  | .arrived tag x y => some (takeArrived tag (.ofWords x y))
  | .fault tag code => some (takeFault tag code)
  | .position x y => some (takePosition (.ofWords x y))
  | .sample z q => some (takeSample z q)
  | .grabStrobe => some takeStrobe
  | .orderTimerExpiry => some expireOrder
  | .prealignTimerExpiry => some expirePrealign
  | .debounceTimerExpiry p => some (expireDebounce p)
  | .moveTimerExpiry => some expireMove
  | .settleTimerExpiry => some expireSettle
  | .resultTimerExpiry => some expireResult
  | .millisecondTick => some tick
  | _ => none

theorem exec_of_busWord {c : Instr} {u : UpWord} (h : busWord c = some u) (s : State) :
    exec c s = .next (upstream u s) := by
  cases c <;> cases h <;> rfl

theorem exec_of_unitEffect {c : Instr} {f : State → State} (h : unitEffect c = some f) (s : State) :
    exec c s = .next (finish (f s)) := by
  cases c <;> cases h <;> rfl

/-- A row is a reset, an access of the upstream bus, or an effect of the units with the planner run after it. -/
theorem row_cases (c : Instr) : c = .powerOn ∨ c = .lineReset ∨ c = .burstResume ∨ (∃ b, c = .causeCellRead b) ∨
    (∃ u, busWord c = some u) ∨ ∃ f, unitEffect c = some f := by
  cases c
  case powerOn => exact .inl rfl
  case lineReset => exact .inr (.inl rfl)
  case burstResume => exact .inr (.inr (.inl rfl))
  case causeCellRead b => exact .inr (.inr (.inr (.inl ⟨b, rfl⟩)))
  all_goals
    first
      | exact .inr (.inr (.inr (.inr (.inl ⟨_, rfl⟩))))
      | exact .inr (.inr (.inr (.inr (.inr ⟨_, rfl⟩))))

/-! ## A sample -/

theorem guardCount_guard_only (s : State) (z : Word) (q : Byte) :
    ∃ g, guardCount z q s = { s with guard := g } := by
  unfold guardCount
  split
  · exact ⟨_, rfl⟩
  · exact ⟨s.guard, rfl⟩

theorem takeSample_good {s : State} (z : Word) (q : Byte) (h : GoodUnits s) : GoodUnits (takeSample z q s) := by
  obtain ⟨g, hg⟩ := guardCount_guard_only s z q
  have hcounted : GoodUnits { s with guard := g } := h.of_guard g
  have hsample := fun t => focusSample_keeps t z q
  unfold takeSample
  dsimp only
  rw [hg]
  split
  case h_1 => exact (hsample _).good hcounted
  case h_2 => exact (inEitherOrder_keeps _ _ _ hsample fun t => tripEvent_keeps t 1 z).good (hcounted.of_guard _)
  case h_3 =>
    exact (inEitherOrder_keeps _ _ _ hsample fun t =>
      (tripEvent_keeps t 2 z).trans (hardTripActions_keeps _)).good (hcounted.of_guard _)
  case h_4 =>
    have hreleased := (inEitherOrder_keeps _ _ _ hsample fun t => releaseEvent_keeps t 1 z).good hcounted
    exact (refreshOutput_keeps _).good (hreleased.of_guard _)

/-! ## The invariant of the part -/

theorem reset_good : GoodState State.reset where
  queue := (by decide : 2 ≤ 16)
  memory := reset_mem_wf
  wafers := List.length_replicate
  table := ⟨by decide, fun i => Nat.zero_le _, .nil, .nil⟩
  page := ⟨fun z hz => absurd hz List.not_mem_nil, fun a ha => absurd ha List.not_mem_nil⟩
  copies := ⟨List.length_replicate, List.length_replicate⟩
  noRunDue := rfl

theorem resetPart_good {s : State} (cause : ResetCause) (h : GoodState s) : GoodState (resetPart cause s) :=
  ⟨reset_good.queue, h.memory, reset_good.wafers, reset_good.table.sublist (.refl _),
    ⟨reset_good.page.zones, reset_good.page.held⟩, reset_good.copies, rfl⟩

theorem unitEffect_good {c : Instr} {f : State → State} (hc : unitEffect c = some f) {s : State} (h : GoodUnits s) :
    GoodUnits (f s) := by
  cases c <;> cases hc
  case intakeRecord => exact completeIntake_good h
  case resultRecord => exact completeResult_good h
  case markRecord => exact completeMark_good h
  case acceptJobComplete => exact completeAccept_good h
  case eventJobComplete => exact completeEvent_good h
  case reportJobComplete => exact completeReport_good h
  case layoutReadComplete => exact completeLayout_good h
  case loadmapComplete => exact completeLoading_good h
  case loadingBegin =>
    dsimp only
    split
    · exact beginLoading_good h
    · exact h
  case reportJobQueued => exact (queueReport_keeps s).good h
  case layoutReadQueued => exact (queueWaitingLayout_keeps s).good h
  case done => exact (takeDone_keeps s _ _).good h
  case prealigned => exact (takePrealigned_keeps s _ _).good h
  case prealignFail => exact (takePrealignFail_keeps s _).good h
  case slotmap => exact (takeSlotmap_keeps s _ _).good h
  case port => exact (takePort_keeps s _ _ _).good h
  case arrived => exact (takeArrived_keeps s _ _).good h
  case fault => exact (takeFault_keeps s _ _).good h
  case position => exact (takePosition_keeps s _).good h
  case sample => exact takeSample_good _ _ h
  case grabStrobe => exact (takeStrobe_keeps s).good h
  case orderTimerExpiry => exact (expireOrder_keeps s).good h
  case prealignTimerExpiry => exact (expirePrealign_keeps s).good h
  case debounceTimerExpiry => exact (expireDebounce_keeps s _).good h
  case moveTimerExpiry => exact (expireMove_keeps s).good h
  case settleTimerExpiry => exact (expireSettle_keeps s).good h
  case resultTimerExpiry => exact (expireResult_keeps s).good h
  case millisecondTick => exact h.of_parts id id rfl (.refl _) rfl (fun _ => id) rfl rfl

theorem exec_good {c : Instr} {s t : State} (h : GoodState s) (hexec : exec c s = .next t) : GoodState t := by
  obtain rfl | rfl | rfl | ⟨b, rfl⟩ | ⟨u, hu⟩ | ⟨f, hf⟩ := row_cases c
  · cases hexec; exact resetPart_good .power h
  · cases hexec; exact resetPart_good .line h
  · cases hexec; exact serveWaiting_good _ h
  · cases hexec; exact upstreamBurst_good _ h
  · rw [exec_of_busWord hu] at hexec
    cases hexec
    exact upstream_good u h
  · rw [exec_of_unitEffect hf] at hexec
    cases hexec
    exact finish_good (unitEffect_good hf h.units)

/-- The queues that wait outside the part are no part of the invariant. -/
theorem GoodState.of_outside {s : State} (h : GoodState s) (p : List Instr) (r : List ReadAccess) :
    GoodState { s with pending := p, reads := r } :=
  ⟨h.queue, h.memory, h.wafers, h.table.sublist (.refl _), ⟨h.page.zones, h.page.held⟩, h.copies, h.noRunDue⟩

theorem idleStep_good {s : State} (h : GoodState s) : GoodState (idleStep s) := by
  unfold idleStep
  split
  · refine (idleBurst_good h.units).goodState ?_
    have hrun : (idleBurst s).handling = s.handling := by
      unfold idleBurst
      split
      · split <;> rfl
      · rfl
    rw [NoRunDue, hrun]
    exact h.noRunDue
  · exact upstreamBurst_good _ (h.of_outside s.pending _)

/-- Settles O4: no operation leaves the bounds of `GoodUnits`, and `finish` leaves no planner run due. -/
theorem stepKeepsGoodState : Obligations.StepKeepsGoodState := by
  intro s t h hstep
  unfold step at hstep
  split at hstep
  · cases hstep; exact idleStep_good h
  · exact exec_good (h.of_outside _ s.reads) hstep

/-- Settles O3. -/
theorem resetIsGood : Obligations.ResetIsGood := reset_good

/-- Settles O1: `step` takes the front of the queue by its own equation. -/
theorem stepTakesTheFront : Obligations.StepTakesTheFront := fun _ _ _ => rfl

end Sys2Proof.Machine
end

-- ==== Proofs: a HARD trip is latched (R141, R143, R144) ====
section
namespace Sys2Proof.Machine

/-! ## What keeps a HARD trip -/

/-- A HARD trip of `s` stands in `t`, with its trip height, and the focus output is where it was. -/
def KeepsTrip (s t : State) : Prop :=
  s.guard.state = .hardTripped →
    t.guard.state = .hardTripped ∧ t.guard.tripHeight = s.guard.tripHeight ∧ t.focus.output = s.focus.output

theorem KeepsTrip.refl (s : State) : KeepsTrip s s := fun h => ⟨h, rfl, rfl⟩

theorem KeepsTrip.trans {s t u : State} (h : KeepsTrip s t) (k : KeepsTrip t u) : KeepsTrip s u := fun hs => by
  obtain ⟨ht, hheight, hout⟩ := h hs
  obtain ⟨hu, hheight', hout'⟩ := k ht
  exact ⟨hu, hheight'.trans hheight, hout'.trans hout⟩

/-- An operation on neither the guard nor the focus output. -/
theorem KeepsTrip.of_eq {s t : State} (hguard : t.guard = s.guard) (hout : t.focus.output = s.focus.output) :
    KeepsTrip s t := fun hs => ⟨by rw [hguard]; exact hs, by rw [hguard], hout⟩

theorem guardHolds_of_hardTripped {s : State} (h : s.guard.state = .hardTripped) : guardHolds s = true := by
  rw [guardHolds, h]
  rfl

/-- The units leave the guard, and the output while the guard holds it (R139). -/
theorem Keeps.keepsTrip {s t : State} (k : Keeps s t) : KeepsTrip s t := fun hs =>
  ⟨by rw [k.guard]; exact hs, by rw [k.guard], k.held_output (guardHolds_of_hardTripped hs)⟩

/-! ## Writes to the configuration page -/

/-- A write that the command cell takes as GUARD_CLEAR (R188). -/
def clearsGuard (u : UpWord) : Prop :=
  ∃ d e, u.access = .write d e ∧ u.addr = 0xFFF100 ∧ e.getLsbD 0 = true ∧ lane d 0 = 10

theorem resetVisit_keepsTrip (s : State) : KeepsTrip s (resetVisit s) :=
  ((haltMove_keeps s).trans (visit_keeps _ _)).keepsTrip

/-- A soft reset keeps the guard and the output as they are (R138, R144). -/
theorem cmdSoftReset_keepsTrip (s : State) : KeepsTrip s (cmdSoftReset s) := by
  have hcommand : KeepsTrip s (resetCommand s) := .of_eq rfl rfl
  have hfocus : ∀ t, KeepsTrip t (resetFocus t) := fun t => .of_eq rfl rfl
  have hrecords : ∀ t, KeepsTrip t (endWait .fetch (resetRecords t)) := fun t => .of_eq rfl rfl
  exact ((hcommand.trans (resetVisit_keepsTrip _)).trans (hfocus _)).trans (hrecords _)

theorem carryOut_keepsTrip (s : State) {value : Nat} (hclear : value ≠ 10) : KeepsTrip s (carryOut value s) := by
  by_cases hreset : value = 13
  · rw [hreset]; exact cmdSoftReset_keepsTrip s
  · exact (carryOut_keeps s hclear hreset).keepsTrip

theorem takeCommand_keepsTrip (s : State) {value : Byte} (hclear : value ≠ 10) : KeepsTrip s (takeCommand value s) := by
  have hcounted : KeepsTrip s (countCommand value s) := .of_eq rfl rfl
  have hne : value.toNat ≠ 10 := fun h => hclear (BitVec.eq_of_toNat_eq h)
  unfold takeCommand
  dsimp only
  split
  · exact hcounted.trans (answer_keeps _ _).keepsTrip
  · exact hcounted.trans (carryOut_keepsTrip _ hne)

theorem writeParameter_keepsTrip (s : State) (n : Nat) (d : Word) (e : BitVec 4) :
    KeepsTrip s (writeParameter n d e s) := by
  unfold writeParameter
  split
  · exact .refl s
  · dsimp only
    have hcopied : KeepsTrip s { s with cmd := { s.cmd with paramRaw := overlayAt s.cmd.paramRaw n d e } } :=
      .of_eq rfl rfl
    refine KeepsTrip.trans ?_ (clampEvent_keeps _ _ _).keepsTrip
    split
    · exact hcopied.trans (reclampOutput_keeps _).keepsTrip
    · exact hcopied

theorem watchMapped_keepsTrip (s : State) (offset : Nat) (d : Word) (e : BitVec 4) :
    KeepsTrip s (watchMapped offset d e s) := by
  unfold watchMapped
  split
  · exact .refl s
  split
  · unfold writeEventConsumer
    split
    · exact .refl s
    · dsimp only
      split
      · exact .of_eq rfl rfl
      · exact .refl s
  split
  · exact (writeReportConsumer_keeps s d e).keepsTrip
  split
  · exact .of_eq rfl rfl
  split
  · exact writeParameter_keepsTrip s _ d e
  · exact .refl s

theorem watchCell_keepsTrip (s : State) (offset : Nat) (d : Word) (e : BitVec 4)
    (h : ¬ (offset = 0x100 ∧ e.getLsbD 0 = true ∧ lane d 0 = 10)) : KeepsTrip s (watchCell offset d e s) := by
  unfold watchCell
  split
  · exact (requestReload_keeps s).keepsTrip
  split
  case isTrue hoffset =>
    unfold writeCommandCell
    split
    case isTrue hlane => exact takeCommand_keepsTrip s fun hvalue => h ⟨hoffset, hlane, hvalue⟩
    case isFalse => exact .refl s
  split
  · exact .of_eq rfl rfl
  split
  · exact .of_eq rfl rfl
  · exact watchMapped_keepsTrip s offset d e

/-! ## Words of the upstream bus -/

theorem dropWord_keepsTrip (s : State) (i a : Nat) : KeepsTrip s (dropWord i a s) := by
  unfold dropWord reportDrop
  split
  · exact .of_eq rfl rfl
  · have hnoted : ∀ p : Path, KeepsTrip s { s with path := p } := fun p => .of_eq rfl rfl
    exact (hnoted _).trans (postEvent_keeps _ _ _ _ _).keepsTrip

theorem serveRead_keepsTrip (s : State) (a : Nat) : KeepsTrip s (serveRead a s) := by
  unfold serveRead
  split <;> exact .of_eq rfl rfl

theorem serveAccess_keepsTrip (s : State) {u : UpWord} (h : ¬ clearsGuard u) : KeepsTrip s (serveAccess u s) := by
  unfold serveAccess
  split
  case h_1 => exact serveRead_keepsTrip s _
  case h_2 d e haccess =>
    have hforward : KeepsTrip s (forward u.addr d e s) := .of_eq rfl rfl
    split
    · exact .refl s
    · exact .refl s
    · exact dropWord_keepsTrip s _ _
    · exact hforward.trans (.of_eq rfl rfl)
    · refine hforward.trans ?_
      unfold watchWrite
      split
      case isTrue => exact .refl _
      case isFalse hpage =>
        refine watchCell_keepsTrip _ _ d e fun ⟨hoffset, hlane, hvalue⟩ => h ⟨d, e, haccess, ?_, hlane, hvalue⟩
        simp only [Config.pageBase] at hpage hoffset
        omega

theorem serveWord_keepsTrip (s : State) {u : UpWord} (h : ¬ clearsGuard u) : KeepsTrip s (serveWord u s) := by
  have hbus : KeepsTrip s (takeBus u s) := .of_eq rfl rfl
  exact (hbus.trans (serveAccess_keepsTrip _ h)).trans (finish_keeps _).keepsTrip

theorem upstream_keepsTrip (s : State) {u : UpWord} (h : ¬ clearsGuard u) : KeepsTrip s (upstream u s) := by
  unfold upstream
  split
  · split
    · exact .of_eq rfl rfl
    · exact serveWord_keepsTrip s h
  · exact .of_eq rfl rfl

theorem upstreamBurst_keepsTrip (s : State) (us : List UpWord) (h : ∀ u ∈ us, u.access = .read) :
    KeepsTrip s (upstreamBurst us s) := by
  unfold upstreamBurst
  induction us generalizing s with
  | nil => exact .refl s
  | cons u us ih =>
    obtain ⟨hu, hus⟩ := List.forall_mem_cons.mp h
    have hread : ¬ clearsGuard u := fun ⟨d, e, haccess, _⟩ => by rw [hu] at haccess; cases haccess
    exact (upstream_keepsTrip s hread).trans (ih _ hus)

theorem access_of_mem_readBurst (offset n : Nat) : ∀ u ∈ readBurst offset n, u.access = .read := by
  induction n generalizing offset with
  | zero => exact fun u hu => absurd hu List.not_mem_nil
  | succ n ih => exact List.forall_mem_cons.mpr ⟨rfl, ih _⟩

/-! ## Which rows clear the guard -/

/-- The command value stands in lane 0 of its write (R188). -/
theorem lane_append_zero (upper : BitVec 24) (value : BitVec 8) : lane (upper ++ value : BitVec (24 + 8)) 0 = value := by
  apply BitVec.eq_of_getLsbD_eq
  intro i hi
  rw [lane, BitVec.getLsbD_extractLsb', Nat.mul_zero, Nat.zero_add, BitVec.getLsbD_append]
  simp [hi]

theorem clearsGuard_commandWrite {value : BitVec 8} {w : CommandWrite} (h : clearsGuard (commandWrite value w)) :
    value = 10 := by
  obtain ⟨d, e, haccess, -, -, hvalue⟩ := h
  cases haccess
  rw [← hvalue]
  exact (lane_append_zero _ _).symm

theorem not_clearsGuard_cellWrite {offset : Nat} (w : WordWrite) (h4 : offset % 4 = 0) (hl : offset < 0x1000)
    (hne : offset ≠ 0x100) : ¬ clearsGuard (cellWrite offset w) := by
  rintro ⟨d, e, -, haddr, -⟩
  have hcell : (cellWrite offset w).addr = 0xFFF000 + offset := cellIndex_addr offset h4 hl
  omega

/-- No well-formed row but GUARD_CLEAR itself writes the command cell with the value of GUARD_CLEAR. -/
theorem not_clearsGuard_of_busWord {c : Instr} {u : UpWord} (hu : busWord c = some u) (hwf : c.wellFormed = true)
    (hclear : ∀ w, c ≠ .guardClear w) : ¬ clearsGuard u := by
  cases c <;> cases hu
  case guardClear w => exact absurd rfl (hclear w)
  case unknownCommand v w =>
    intro h
    rw [clearsGuard_commandWrite h] at hwf
    simp [Instr.wellFormed, unknownValue] at hwf
  case mapHeaderWrite => exact not_clearsGuard_cellWrite _ rfl (by decide) (by decide)
  case argumentCellWrite k w => exact not_clearsGuard_cellWrite _ (by omega) (by omega) (by omega)
  case attentionMaskWrite => exact not_clearsGuard_cellWrite _ rfl (by decide) (by decide)
  case eventConsumerIndexWrite => exact not_clearsGuard_cellWrite _ rfl (by decide) (by decide)
  case reportConsumerIndexWrite => exact not_clearsGuard_cellWrite _ rfl (by decide) (by decide)
  case windowSelectWrite => exact not_clearsGuard_cellWrite _ rfl (by decide) (by decide)
  case parameterWrite n w => exact not_clearsGuard_cellWrite _ (by omega) (by omega) (by omega)
  case upstreamWrite index w =>
    rintro ⟨d, e, haccess, haddr, hlane, -⟩
    cases haccess
    have hbyte : byteAddress index = 0xFFF100 := haddr
    simp only [Instr.wellFormed, rowOfItsOwn, hbyte, hlane] at hwf
    exact absurd hwf (by decide)
  case posting index w =>
    rintro ⟨d, e, -, haddr, -⟩
    have hbyte : byteAddress index = 0xFFF100 := haddr
    simp only [Instr.wellFormed, tagPlace, hbyte] at hwf
    simp at hwf
  all_goals exact fun h => absurd (clearsGuard_commandWrite h) (by decide)

/-! ## The effects of the units -/

/-- A HARD trip leaves a sample nothing to trip and nothing to release (R141, R142). -/
theorem guardAction_of_hardTripped (s : State) (z : Word) (q : Byte) (h : s.guard.state = .hardTripped) :
    guardAction z q s = .none := by
  unfold guardAction
  simp only [h, tripAction]
  split
  · split
    · rfl
    · split <;> rfl
  · rfl

theorem guardCount_state (s : State) (z : Word) (q : Byte) :
    (guardCount z q s).guard.state = s.guard.state ∧ (guardCount z q s).guard.tripHeight = s.guard.tripHeight := by
  unfold guardCount countRuns
  split
  · split <;> exact ⟨rfl, rfl⟩
  · exact ⟨rfl, rfl⟩

theorem guardCount_focus (s : State) (z : Word) (q : Byte) : (guardCount z q s).focus = s.focus := by
  unfold guardCount
  split <;> rfl

theorem takeSample_keepsTrip (s : State) (z : Word) (q : Byte) : KeepsTrip s (takeSample z q s) := by
  intro hs
  obtain ⟨hstate, hheight⟩ := guardCount_state s z q
  have hcounted : KeepsTrip s (guardCount z q s) :=
    fun h => ⟨hstate.trans h, hheight, by rw [guardCount_focus]⟩
  unfold takeSample
  simp only [guardAction_of_hardTripped _ z q (hstate.trans hs)]
  exact (hcounted.trans (focusSample_keeps _ z q).keepsTrip) hs

theorem finishHead_keepsTrip (s : State) : KeepsTrip s (finishHead s) := .of_eq (by simp) (by simp)

theorem completeIntake_keepsTrip (s : State) : KeepsTrip s (completeIntake s) := by
  unfold completeIntake
  split
  · exact .refl s
  split
  · exact finishHead_keepsTrip s
  refine (finishHead_keepsTrip s).trans ?_
  unfold answerIntake joinEntry
  dsimp only
  split
  · split
    · refine KeepsTrip.trans ?_ (dispatch_keeps _).keepsTrip
      exact .of_eq rfl rfl
    · exact .of_eq rfl rfl
  · exact .of_eq rfl rfl

theorem completeResult_keepsTrip (s : State) : KeepsTrip s (completeResult s) := by
  have haccept : ∀ slot c seq n t, KeepsTrip t (acceptRecord slot c seq n t) := fun _ _ _ _ _ => .of_eq rfl rfl
  unfold completeResult
  split
  · exact .refl s
  split
  · exact finishHead_keepsTrip s
  refine (finishHead_keepsTrip s).trans ?_
  unfold answerResult
  split
  · exact haccept _ _ _ _ _
  split
  · exact (haccept _ _ _ _ _).trans (takeResult_keeps _ _ _).keepsTrip
  · exact haccept _ _ _ _ _

theorem completeMark_keepsTrip (s : State) : KeepsTrip s (completeMark s) := by
  unfold completeMark
  split
  · exact .refl s
  split
  · exact finishHead_keepsTrip s
  refine (finishHead_keepsTrip s).trans ?_
  unfold answerMark
  dsimp only
  refine KeepsTrip.trans ?_ (closeOnLast_keeps _ _ _ _).keepsTrip
  split <;> exact .of_eq rfl rfl

theorem completeAccept_keepsTrip (s : State) : KeepsTrip s (completeAccept s) := by
  unfold completeAccept
  split
  · exact (finishHead_keepsTrip s).trans (.of_eq rfl rfl)
  · exact .refl s

theorem completeEvent_keepsTrip (s : State) : KeepsTrip s (completeEvent s) := by
  unfold completeEvent
  split
  · exact finishHead_keepsTrip s
  · exact .refl s

theorem completeReport_keepsTrip (s : State) : KeepsTrip s (completeReport s) := by
  unfold completeReport
  split
  · split
    · exact (finishHead_keepsTrip s).trans ((reportWritten_keeps _ _ _).trans (ringTest_keeps _)).keepsTrip
    · exact (finishHead_keepsTrip s).trans (ringTest_keeps _).keepsTrip
  · exact .refl s

theorem completeLayout_keepsTrip (s : State) : KeepsTrip s (completeLayout s) := by
  unfold completeLayout
  split
  · split
    · exact finishHead_keepsTrip s
    · exact (finishHead_keepsTrip s).trans ((closeLotStart_keeps _).trans (decideStart_keeps _ _ _)).keepsTrip
  · exact .refl s

theorem copyParams_keepsTrip (s : State) (ws : List Word) : KeepsTrip s (copyParams ws s) := by
  unfold copyParams
  dsimp only
  split
  · refine KeepsTrip.trans ?_ (reclampOutput_keeps _).keepsTrip
    exact .of_eq rfl rfl
  · exact .of_eq rfl rfl

theorem setReportSide_keepsTrip (s : State) (old zs : List Zone) : KeepsTrip s (setReportSide old zs s) := by
  unfold setReportSide
  split
  · exact .refl s
  · unfold moveReportRing
    dsimp only
    split <;> exact .of_eq rfl rfl

theorem setEventSide_keepsTrip (s : State) (old zs : List Zone) : KeepsTrip s (setEventSide old zs s) := by
  unfold setEventSide
  split
  · exact .refl s
  · exact .of_eq rfl rfl

theorem applyMap_keepsTrip (s : State) (ws : List Word) : KeepsTrip s (applyMap ws s) := by
  have hmap : ∀ m zs, KeepsTrip s (setMap m zs s) := fun _ _ => .of_eq rfl rfl
  unfold applyMap
  split
  · exact (((hmap _ _).trans (setReportSide_keepsTrip _ _ _)).trans (setEventSide_keepsTrip _ _ _)).trans
      (postEvent_keeps _ _ _ _ _).keepsTrip
  · exact (hmap _ _).trans (postEvent_keeps _ _ _ _ _).keepsTrip

theorem completeReset_keepsTrip (s : State) : KeepsTrip s (completeReset s) := by
  unfold completeReset
  refine KeepsTrip.trans ?_ ((buildLotZero_keeps _).trans (settleHandling_keeps _)).keepsTrip
  exact .of_eq rfl rfl

theorem completeLoading_keepsTrip (s : State) : KeepsTrip s (completeLoading s) := by
  unfold completeLoading
  split
  · have hended := ((((finishHead_keepsTrip s).trans (finishHead_keepsTrip _)).trans
      (copyParams_keepsTrip _ (paramWords s))).trans (applyMap_keepsTrip _ (mapWords s))).trans
      (clampEvents_keeps _).keepsTrip
    have hnoted : ∀ t, KeepsTrip t (noteWait t) := fun t => .of_eq rfl rfl
    unfold endLoading
    dsimp only
    refine KeepsTrip.trans ?_ (hnoted _)
    split
    · exact hended.trans (completeReset_keepsTrip _)
    · exact hended
  · exact .refl s

theorem unitEffect_keepsTrip {c : Instr} {f : State → State} (hc : unitEffect c = some f) (s : State) :
    KeepsTrip s (f s) := by
  cases c <;> cases hc
  case intakeRecord => exact completeIntake_keepsTrip s
  case resultRecord => exact completeResult_keepsTrip s
  case markRecord => exact completeMark_keepsTrip s
  case acceptJobComplete => exact completeAccept_keepsTrip s
  case eventJobComplete => exact completeEvent_keepsTrip s
  case reportJobComplete => exact completeReport_keepsTrip s
  case layoutReadComplete => exact completeLayout_keepsTrip s
  case loadmapComplete => exact completeLoading_keepsTrip s
  case loadingBegin =>
    dsimp only
    split
    · exact .of_eq rfl rfl
    · exact .refl s
  case reportJobQueued => exact (queueReport_keeps s).keepsTrip
  case layoutReadQueued => exact (queueWaitingLayout_keeps s).keepsTrip
  case done => exact (takeDone_keeps s _ _).keepsTrip
  case prealigned => exact (takePrealigned_keeps s _ _).keepsTrip
  case prealignFail => exact (takePrealignFail_keeps s _).keepsTrip
  case slotmap => exact (takeSlotmap_keeps s _ _).keepsTrip
  case port => exact (takePort_keeps s _ _ _).keepsTrip
  case arrived => exact (takeArrived_keeps s _ _).keepsTrip
  case fault => exact (takeFault_keeps s _ _).keepsTrip
  case position => exact (takePosition_keeps s _).keepsTrip
  case sample => exact takeSample_keepsTrip s _ _
  case grabStrobe => exact (takeStrobe_keeps s).keepsTrip
  case orderTimerExpiry => exact (expireOrder_keeps s).keepsTrip
  case prealignTimerExpiry => exact (expirePrealign_keeps s).keepsTrip
  case debounceTimerExpiry => exact (expireDebounce_keeps s _).keepsTrip
  case moveTimerExpiry => exact (expireMove_keeps s).keepsTrip
  case settleTimerExpiry => exact (expireSettle_keeps s).keepsTrip
  case resultTimerExpiry => exact (expireResult_keeps s).keepsTrip
  case millisecondTick => exact .of_eq rfl rfl

/-- Settles O5: GUARD_CLEAR and a reset of the part apart, the guard changes with a sample alone, and a sample finds
nothing to do in a HARD trip. -/
theorem hardTripIsLatched : Obligations.HardTripIsLatched := by
  intro c s t hwf hpower hline hclear hresume htrip hexec
  obtain rfl | rfl | rfl | ⟨b, rfl⟩ | ⟨u, hu⟩ | ⟨f, hf⟩ := row_cases c
  · exact absurd rfl hpower
  · exact absurd rfl hline
  · cases hexec
    rw [hresume rfl]
    exact ⟨htrip, rfl, rfl⟩
  · cases hexec
    exact upstreamBurst_keepsTrip s _ (access_of_mem_readBurst _ _) htrip
  · rw [exec_of_busWord hu] at hexec
    cases hexec
    exact upstream_keepsTrip s (not_clearsGuard_of_busWord hu hwf hclear) htrip
  · rw [exec_of_unitEffect hf] at hexec
    cases hexec
    exact ((unitEffect_keepsTrip hf s).trans (finish_keeps _).keepsTrip) htrip

end Sys2Proof.Machine
end

-- ==== Proofs: rounding, the tests of a verdict, a bus write (R52 to R57, R178) ====
section
namespace Sys2Proof.Machine

/-! ## Rounding -/

/-- Half the divisor up, then down to an integer: the quotient is within half a divisor, and a tie goes up. -/
theorem half_up_ediv_bounds (n : Int) {d : Nat} (hd : 0 < d) :
    -(d : Int) < 2 * (d * ((2 * n + d) / (2 * d)) - n) ∧ 2 * (d * ((2 * n + d) / (2 * d)) - n) ≤ d := by
  have hpos : (0 : Int) < 2 * d := by omega
  have hle := Int.mul_ediv_self_le (x := 2 * n + d) hpos.ne'
  have hlt := Int.lt_mul_ediv_self_add (x := 2 * n + d) hpos
  rw [Int.mul_assoc] at hle hlt
  omega

theorem roundDiv_neg (n : Int) {d : Nat} (hd : 0 < d) : roundDiv (-n) d = -roundDiv n d := by
  obtain hneg | rfl | hpos := lt_trichotomy n 0
  · rw [roundDiv, roundDiv, if_pos (by omega), if_neg (by omega), Int.neg_neg]
  · rw [neg_zero, roundDiv_zero hd, neg_zero]
  · rw [roundDiv, roundDiv, if_neg (by omega), if_pos hpos.le, Int.neg_neg]

/-- Of a number that is not negative: within half a divisor, and a tie above it. -/
theorem roundDiv_bounds_of_nonneg {n : Int} (hn : 0 ≤ n) {d : Nat} (hd : 0 < d) :
    -(d : Int) < 2 * (d * roundDiv n d - n) ∧ 2 * (d * roundDiv n d - n) ≤ d := by
  rw [roundDiv, if_pos hn]
  exact half_up_ediv_bounds n hd

/-- Settles O29: by `half_up_ediv_bounds` for a number that is not negative, and by symmetry for a negative one. -/
theorem roundingIsNearest : Obligations.RoundingIsNearest := by
  intro n d hd r
  refine ⟨?_, ?_, roundDiv_neg n hd⟩
  all_goals
    obtain hn | hn := le_or_gt 0 n
    · obtain ⟨hlow, hhigh⟩ := roundDiv_bounds_of_nonneg hn hd
      change -(d : Int) < 2 * (d * r - n) at hlow
      change 2 * (d * r - n) ≤ d at hhigh
      omega
    · obtain ⟨hlow, hhigh⟩ := roundDiv_bounds_of_nonneg (n := -n) (by omega) hd
      rw [roundDiv_neg n hd, mul_neg] at hlow hhigh
      change -(d : Int) < 2 * (-(d * r) - -n) at hlow
      change 2 * (-(d * r) - -n) ≤ d at hhigh
      omega

/-! ## A bus write -/

/-- Settles O7: lane by lane, the bytes outside the word, and the canonical form. -/
theorem writeChangesItsLanes : Obligations.WriteChangesItsLanes := fun m a d e hwf =>
  ⟨fun k hk => readByte_writeWord_lane m a d e k hk hwf, readByte_writeWord_outside m a d e, writeWord_wf a d e hwf⟩

/-! ## The tests of a verdict -/

/-- The squared separation is compared exactly (R53). -/
theorem norm2_lt_separationLimit (d : Point) :
    norm2 d < separationLimit ↔ d.x * d.x + d.y * d.y < 2500000000000000 := by
  rw [← norm2_eq_dot, separationLimit]
  omega

/-- Both coefficients are in range (R55). -/
theorem coeffsInRange_iff (a b : Int) : coeffsInRange a b = true ↔
    -1073742 ≤ a - 1073741824 ∧ a - 1073741824 ≤ 1073742 ∧ -10737418 ≤ b ∧ b ≤ 10737418 := by
  rw [coeffsInRange, Bool.and_eq_true, decide_eq_true_eq, decide_eq_true_eq, q30]
  omega

/-- The residual of a check mark is within the tolerance in each component (R57). -/
theorem checkPasses_iff (t : Transform) (tol : Int) (c : Mark) : checkPasses t tol c = true ↔
    ((c.measured.x - (t.apply c.design).x).natAbs : Int) ≤ tol ∧
    ((c.measured.y - (t.apply c.design).y).natAbs : Int) ≤ tol := by
  rw [checkPasses, Bool.and_eq_true, decide_eq_true_eq, decide_eq_true_eq]
  exact Iff.rfl

/-- The verdict of an attempt with both marks, test by test (R52). -/
theorem judge_of_marks {al : Align} {p q : Mark} (tol : Int) (hp : al.primary = some p) (hq : al.secondary = some q) :
    judge al tol =
      if norm2 (vec p.design q.design) < separationLimit then (.marksTooClose, none)
      else if ¬ coeffsInRange (transformOf p q).a (transformOf p q).b = true then (.coeffRange, none)
      else if ¬ (∀ c ∈ al.checks, checkPasses (transformOf p q) tol c = true) then (.checkFailed, none)
      else (.accepted, some (transformOf p q)) := by
  simp [judge, hp, hq]

theorem judge_of_mark_absent {al : Align} (tol : Int) (h : al.primary = none ∨ al.secondary = none) :
    judge al tol = (.incomplete, none) := by
  unfold judge
  split
  case h_1 hp hq =>
    obtain h | h := h
    · rw [h] at hp; cases hp
    · rw [h] at hq; cases hq
  case h_2 => rfl

/-- Settles O31: the nest of tests of `judge_of_marks`, each read by its own lemma. -/
theorem verdictTests : Obligations.VerdictTests := by
  intro al tol
  refine ⟨judge_of_mark_absent tol, ?_⟩
  intro p q hp hq dx dy t close range image checked
  have hclose : norm2 (vec p.design q.design) < separationLimit ↔ close := norm2_lt_separationLimit _
  have hrange : coeffsInRange (transformOf p q).a (transformOf p q).b = true ↔ range := coeffsInRange_iff _ _
  have hchecked : (∀ c ∈ al.checks, checkPasses (transformOf p q) tol c = true) ↔ checked :=
    forall₂_congr fun c _ => checkPasses_iff _ tol c
  rw [judge_of_marks tol hp hq]
  simp only [hclose, hrange, hchecked]
  refine ⟨fun hc => if_pos hc, fun hc hr => ?_, fun hc hr hk => ?_, fun hc hr hk => ?_⟩
  · rw [if_neg hc, if_pos hr]
  · rw [if_neg hc, if_neg (not_not.mpr hr), if_pos hk]
  · rw [if_neg hc, if_neg (not_not.mpr hr), if_neg (not_not.mpr hk)]

/-! ## The values after power-on -/

/-- Settles O2: each value of `State.reset` as it is written down; the wafer table lists 50 free places. -/
theorem resetValues : Obligations.ResetValues := by
  refine ⟨rfl, rfl, rfl, rfl, rfl, rfl, rfl, rfl, rfl, rfl, rfl, rfl, rfl, rfl, rfl, rfl, rfl, rfl, rfl, rfl, rfl, rfl,
    rfl, rfl, rfl, rfl, rfl, rfl, rfl, fun i => ?wafers, rfl, rfl, rfl, rfl, rfl, rfl, rfl, fun p => ?ports, rfl, rfl,
    rfl, rfl, rfl, rfl, rfl, rfl, rfl, rfl, rfl, rfl, rfl, rfl, rfl⟩
  case wafers =>
    change (List.replicate 50 none).getD i none = none
    rw [List.getD_eq_getElem?_getD, List.getElem?_replicate]
    split <;> rfl
  case ports => cases p <;> rfl

end Sys2Proof.Machine
end

-- ==== Proofs: what an event, the ring test and a setting of the focus output leave as it is ====
section
namespace Sys2Proof.Machine

variable (s : State)

/-! ## Events (R194, R197) -/

/-- An event changes the command unit and the job queue with those that wait for a place in it, and nothing else. -/
theorem postEvent_frame (k : EventKind) (w : Option Nat) (a b : Word) :
    ∃ c js ps, postEvent k w a b s = { s with cmd := c, path := { s.path with jobs := js, waiters := ps } } := by
  unfold postEvent
  dsimp only
  split
  · exact ⟨_, s.path.jobs, s.path.waiters, rfl⟩
  · unfold writeEvent
    split
    · exact ⟨_, s.path.jobs, s.path.waiters, rfl⟩
    · exact ⟨_, _, _, rfl⟩

@[simp] theorem postEvent_mem (k : EventKind) (w : Option Nat) (a b : Word) : (postEvent k w a b s).mem = s.mem := by
  obtain ⟨_, _, _, h⟩ := postEvent_frame s k w a b
  rw [h]
@[simp] theorem postEvent_lots (k : EventKind) (w : Option Nat) (a b : Word) : (postEvent k w a b s).lots = s.lots := by
  obtain ⟨_, _, _, h⟩ := postEvent_frame s k w a b
  rw [h]
@[simp] theorem postEvent_wafers (k : EventKind) (w : Option Nat) (a b : Word) : (postEvent k w a b s).wafers = s.wafers := by
  obtain ⟨_, _, _, h⟩ := postEvent_frame s k w a b
  rw [h]
@[simp] theorem postEvent_handling (k : EventKind) (w : Option Nat) (a b : Word) : (postEvent k w a b s).handling = s.handling := by
  obtain ⟨_, _, _, h⟩ := postEvent_frame s k w a b
  rw [h]
@[simp] theorem postEvent_table (k : EventKind) (w : Option Nat) (a b : Word) : (postEvent k w a b s).table = s.table := by
  obtain ⟨_, _, _, h⟩ := postEvent_frame s k w a b
  rw [h]
@[simp] theorem postEvent_visit (k : EventKind) (w : Option Nat) (a b : Word) : (postEvent k w a b s).visit = s.visit := by
  obtain ⟨_, _, _, h⟩ := postEvent_frame s k w a b
  rw [h]
@[simp] theorem postEvent_focus (k : EventKind) (w : Option Nat) (a b : Word) : (postEvent k w a b s).focus = s.focus := by
  obtain ⟨_, _, _, h⟩ := postEvent_frame s k w a b
  rw [h]
@[simp] theorem postEvent_guard (k : EventKind) (w : Option Nat) (a b : Word) : (postEvent k w a b s).guard = s.guard := by
  obtain ⟨_, _, _, h⟩ := postEvent_frame s k w a b
  rw [h]
@[simp] theorem postEvent_report (k : EventKind) (w : Option Nat) (a b : Word) : (postEvent k w a b s).report = s.report := by
  obtain ⟨_, _, _, h⟩ := postEvent_frame s k w a b
  rw [h]
@[simp] theorem postEvent_out (k : EventKind) (w : Option Nat) (a b : Word) : (postEvent k w a b s).out = s.out := by
  obtain ⟨_, _, _, h⟩ := postEvent_frame s k w a b
  rw [h]
@[simp] theorem postEvent_nextRun (k : EventKind) (w : Option Nat) (a b : Word) : (postEvent k w a b s).nextRun = s.nextRun := by
  obtain ⟨_, _, _, h⟩ := postEvent_frame s k w a b
  rw [h]
@[simp] theorem postEvent_choices (k : EventKind) (w : Option Nat) (a b : Word) : (postEvent k w a b s).choices = s.choices := by
  obtain ⟨_, _, _, h⟩ := postEvent_frame s k w a b
  rw [h]
@[simp] theorem postEvent_pending (k : EventKind) (w : Option Nat) (a b : Word) : (postEvent k w a b s).pending = s.pending := by
  obtain ⟨_, _, _, h⟩ := postEvent_frame s k w a b
  rw [h]
@[simp] theorem postEvent_reads (k : EventKind) (w : Option Nat) (a b : Word) : (postEvent k w a b s).reads = s.reads := by
  obtain ⟨_, _, _, h⟩ := postEvent_frame s k w a b
  rw [h]
@[simp] theorem postEvent_mode (k : EventKind) (w : Option Nat) (a b : Word) :
    (postEvent k w a b s).path.mode = s.path.mode := (postEvent_keeps s k w a b).mode
@[simp] theorem postEvent_zones (k : EventKind) (w : Option Nat) (a b : Word) :
    (postEvent k w a b s).path.zones = s.path.zones := (postEvent_keeps s k w a b).zones
@[simp] theorem postEvent_resetting (k : EventKind) (w : Option Nat) (a b : Word) :
    (postEvent k w a b s).cmd.resetting = s.cmd.resetting := (postEvent_keeps s k w a b).resetting
@[simp] theorem postEvent_paramRaw (k : EventKind) (w : Option Nat) (a b : Word) :
    (postEvent k w a b s).cmd.paramRaw = s.cmd.paramRaw := (postEvent_keeps s k w a b).paramRaw
@[simp] theorem postEvent_paramsValid (k : EventKind) (w : Option Nat) (a b : Word) :
    (postEvent k w a b s).cmd.paramsValid = s.cmd.paramsValid := (postEvent_keeps s k w a b).paramsValid
@[simp] theorem postEvent_reloadPending (k : EventKind) (w : Option Nat) (a b : Word) :
    (postEvent k w a b s).path.reloadPending = s.path.reloadPending := by
  obtain ⟨_, _, _, h⟩ := postEvent_frame s k w a b
  rw [h]

@[simp] theorem postEvent_upBurst (k : EventKind) (w : Option Nat) (a b : Word) :
    (postEvent k w a b s).path.upBurst = s.path.upBurst := by
  obtain ⟨_, _, _, h⟩ := postEvent_frame s k w a b
  rw [h]

/-! ## The ring test (R157) -/

/-- The ring test changes those that wait for a queue place, and nothing else. -/
theorem ringTest_frame : ∃ ps, ringTest s = { s with path := { s.path with waiters := ps } } := by
  unfold ringTest
  split <;> exact ⟨_, rfl⟩

@[simp] theorem ringTest_mem : (ringTest s).mem = s.mem := by
  obtain ⟨_, h⟩ := ringTest_frame s 
  rw [h]
@[simp] theorem ringTest_cmd : (ringTest s).cmd = s.cmd := by
  obtain ⟨_, h⟩ := ringTest_frame s 
  rw [h]
@[simp] theorem ringTest_lots : (ringTest s).lots = s.lots := by
  obtain ⟨_, h⟩ := ringTest_frame s 
  rw [h]
@[simp] theorem ringTest_wafers : (ringTest s).wafers = s.wafers := by
  obtain ⟨_, h⟩ := ringTest_frame s 
  rw [h]
@[simp] theorem ringTest_handling : (ringTest s).handling = s.handling := by
  obtain ⟨_, h⟩ := ringTest_frame s 
  rw [h]
@[simp] theorem ringTest_table : (ringTest s).table = s.table := by
  obtain ⟨_, h⟩ := ringTest_frame s 
  rw [h]
@[simp] theorem ringTest_visit : (ringTest s).visit = s.visit := by
  obtain ⟨_, h⟩ := ringTest_frame s 
  rw [h]
@[simp] theorem ringTest_focus : (ringTest s).focus = s.focus := by
  obtain ⟨_, h⟩ := ringTest_frame s 
  rw [h]
@[simp] theorem ringTest_guard : (ringTest s).guard = s.guard := by
  obtain ⟨_, h⟩ := ringTest_frame s 
  rw [h]
@[simp] theorem ringTest_report : (ringTest s).report = s.report := by
  obtain ⟨_, h⟩ := ringTest_frame s 
  rw [h]
@[simp] theorem ringTest_out : (ringTest s).out = s.out := by
  obtain ⟨_, h⟩ := ringTest_frame s 
  rw [h]
@[simp] theorem ringTest_nextRun : (ringTest s).nextRun = s.nextRun := by
  obtain ⟨_, h⟩ := ringTest_frame s 
  rw [h]
@[simp] theorem ringTest_choices : (ringTest s).choices = s.choices := by
  obtain ⟨_, h⟩ := ringTest_frame s 
  rw [h]
@[simp] theorem ringTest_pending : (ringTest s).pending = s.pending := by
  obtain ⟨_, h⟩ := ringTest_frame s 
  rw [h]
@[simp] theorem ringTest_reads : (ringTest s).reads = s.reads := by
  obtain ⟨_, h⟩ := ringTest_frame s 
  rw [h]

/-! ## The focus output (R122 to R125) -/

/-- Setting the output changes the focus unit, and may send a message. -/
theorem setOutput_frame (v : Int) : ∃ f o, setOutput v s = { s with focus := f, out := o } := by
  unfold setOutput
  split
  · exact ⟨s.focus, s.out, rfl⟩
  · unfold driveOutput
    split
    · exact ⟨_, s.out, rfl⟩
    · exact ⟨_, _, rfl⟩

@[simp] theorem setOutput_mem (v : Int) : (setOutput v s).mem = s.mem := by
  obtain ⟨_, _, h⟩ := setOutput_frame s v
  rw [h]
@[simp] theorem setOutput_path (v : Int) : (setOutput v s).path = s.path := by
  obtain ⟨_, _, h⟩ := setOutput_frame s v
  rw [h]
@[simp] theorem setOutput_cmd (v : Int) : (setOutput v s).cmd = s.cmd := by
  obtain ⟨_, _, h⟩ := setOutput_frame s v
  rw [h]
@[simp] theorem setOutput_lots (v : Int) : (setOutput v s).lots = s.lots := by
  obtain ⟨_, _, h⟩ := setOutput_frame s v
  rw [h]
@[simp] theorem setOutput_wafers (v : Int) : (setOutput v s).wafers = s.wafers := by
  obtain ⟨_, _, h⟩ := setOutput_frame s v
  rw [h]
@[simp] theorem setOutput_handling (v : Int) : (setOutput v s).handling = s.handling := by
  obtain ⟨_, _, h⟩ := setOutput_frame s v
  rw [h]
@[simp] theorem setOutput_table (v : Int) : (setOutput v s).table = s.table := by
  obtain ⟨_, _, h⟩ := setOutput_frame s v
  rw [h]
@[simp] theorem setOutput_visit (v : Int) : (setOutput v s).visit = s.visit := by
  obtain ⟨_, _, h⟩ := setOutput_frame s v
  rw [h]
@[simp] theorem setOutput_guard (v : Int) : (setOutput v s).guard = s.guard := by
  obtain ⟨_, _, h⟩ := setOutput_frame s v
  rw [h]
@[simp] theorem setOutput_report (v : Int) : (setOutput v s).report = s.report := by
  obtain ⟨_, _, h⟩ := setOutput_frame s v
  rw [h]
@[simp] theorem setOutput_nextRun (v : Int) : (setOutput v s).nextRun = s.nextRun := by
  obtain ⟨_, _, h⟩ := setOutput_frame s v
  rw [h]
@[simp] theorem setOutput_choices (v : Int) : (setOutput v s).choices = s.choices := by
  obtain ⟨_, _, h⟩ := setOutput_frame s v
  rw [h]
@[simp] theorem setOutput_pending (v : Int) : (setOutput v s).pending = s.pending := by
  obtain ⟨_, _, h⟩ := setOutput_frame s v
  rw [h]
@[simp] theorem setOutput_reads (v : Int) : (setOutput v s).reads = s.reads := by
  obtain ⟨_, _, h⟩ := setOutput_frame s v
  rw [h]

/-- The present output set again (R123). -/
theorem reclampOutput_eq_setOutput : reclampOutput s = setOutput s.focus.output s := rfl

end Sys2Proof.Machine
end

-- ==== Proofs: the tests of a map (R168) ====
section
namespace Sys2Proof.Machine

/-! ## The lowest descriptor that fails a test -/

/-- Descriptor `i` is one of the eight, and used. -/
def usedAt (zs : List Zone) (i : Nat) : Prop := i < 8 ∧ (descriptor zs i).kind ≠ .unused

theorem isUsed_iff (z : Zone) : z.isUsed = true ↔ z.kind ≠ .unused := bne_iff_ne

theorem firstFailing_eq_none_iff (zs : List Zone) (p : Nat → Zone → Bool) :
    firstFailing zs p = none ↔ ∀ i, usedAt zs i → p i (descriptor zs i) = false := by
  rw [firstFailing, List.find?_eq_none]
  simp only [List.mem_range, Bool.and_eq_true, isUsed_iff, not_and, Bool.not_eq_true, usedAt, and_imp]

theorem firstFailing_eq_some_iff (zs : List Zone) (p : Nat → Zone → Bool) (i : Nat) :
    firstFailing zs p = some i ↔ usedAt zs i ∧ p i (descriptor zs i) = true ∧
      ∀ j, j < i → usedAt zs j → p j (descriptor zs j) = false := by
  rw [firstFailing, List.find?_range_eq_some]
  simp only [List.mem_range, Bool.and_eq_true, isUsed_iff, usedAt, Bool.not_eq_true', ← Bool.not_eq_true, not_and]
  constructor
  · rintro ⟨⟨hkind, hp⟩, hi, hbefore⟩
    exact ⟨⟨hi, hkind⟩, hp, fun j hj ⟨_, hjkind⟩ => hbefore j hj hjkind⟩
  · rintro ⟨⟨hi, hkind⟩, hp, hbefore⟩
    exact ⟨⟨hkind, hp⟩, hi, fun j hj hjkind => hbefore j hj ⟨by omega, hjkind⟩⟩

theorem someBefore_eq_false_iff (zs : List Zone) (i : Nat) (rel : Zone → Zone → Bool) (hi : i < 8) :
    someBefore zs i rel = false ↔ ∀ j, j < i → usedAt zs j → rel (descriptor zs j) (descriptor zs i) = false := by
  simp only [someBefore, List.any_eq_false, List.mem_range, Bool.and_eq_true, isUsed_iff, not_and, Bool.not_eq_true,
    usedAt, and_imp]
  exact ⟨fun h j hj _ => h j hj, fun h j hj => h j hj (by omega)⟩

/-! ## Test by test -/

theorem countFails_eq_false_iff (count : Nat) (zs : List Zone) :
    countFails count zs = false ↔ count ≤ 8 ∧ count = (zs.filter fun z => z.kind != .unused).length := by
  rw [countFails, Bool.or_eq_false_iff, decide_eq_false_iff_not, Nat.not_lt, bne_eq_false_iff_eq,
    List.countP_eq_length_filter]
  exact Iff.rfl

theorem fieldFails_eq_false_iff (i : Nat) (z : Zone) : fieldFails i z = false ↔ 1 ≤ z.pages ∧ z.pages ≤ 1024 := by
  rw [fieldFails, Bool.or_eq_false_iff, beq_eq_false_iff_ne, decide_eq_false_iff_not]
  omega

theorem reachFails_eq_false_iff (i : Nat) (z : Zone) :
    reachFails i z = false ↔ (z.page + z.pages) * 4096 ≤ 0xFFF000 := by
  rw [reachFails, decide_eq_false_iff_not, Zone.stop, Zone.base, Config.pageBase]
  omega

theorem overlaps_eq_false_iff (z y : Zone) : z.overlaps y = false ↔ y.stop ≤ z.base ∨ z.stop ≤ y.base := by
  rw [Zone.overlaps, Bool.and_eq_false_iff, decide_eq_false_iff_not, decide_eq_false_iff_not, Nat.not_lt, Nat.not_lt]

theorem isSingle_eq_false_iff {k : ZoneKind} (h : k ≠ .unused) : k.isSingle = false ↔ k = .guarded := by
  cases k <;> simp [ZoneKind.isSingle] at h ⊢

theorem overlapFails_eq_false_iff (zs : List Zone) {i : Nat} (hi : i < 8) (z : Zone) :
    overlapFails zs i z = false ↔ ∀ j, j < i → usedAt zs j →
      (descriptor zs i).stop ≤ (descriptor zs j).base ∨ (descriptor zs j).stop ≤ (descriptor zs i).base := by
  rw [overlapFails, someBefore_eq_false_iff zs i _ hi]
  simp only [overlaps_eq_false_iff]

theorem duplicateFails_eq_false_iff (zs : List Zone) {i : Nat} (hi : usedAt zs i) :
    duplicateFails zs i (descriptor zs i) = false ↔ ∀ j, j < i → usedAt zs j →
      (descriptor zs i).kind = .guarded ∨ (descriptor zs i).kind ≠ (descriptor zs j).kind := by
  rw [duplicateFails, Bool.and_eq_false_iff, isSingle_eq_false_iff hi.2, someBefore_eq_false_iff zs i _ hi.1]
  simp only [beq_eq_false_iff_ne, ne_comm (b := (descriptor zs i).kind)]
  constructor
  · rintro (hguarded | hne) j hj hused
    · exact .inl hguarded
    · exact .inr (hne j hj hused)
  · intro h
    by_cases hguarded : (descriptor zs i).kind = .guarded
    · exact .inl hguarded
    · exact .inr fun j hj hused => (h j hj hused).resolve_left hguarded

/-! ## The first test that fails -/

theorem mapFault_eq_none_iff (count : Nat) (zs : List Zone) : mapFault count zs = none ↔
    countFails count zs = false ∧ firstFailing zs fieldFails = none ∧ firstFailing zs reachFails = none ∧
      firstFailing zs (overlapFails zs) = none ∧ firstFailing zs (duplicateFails zs) = none := by
  unfold mapFault
  split
  case isTrue h => simp [h]
  case isFalse h => simp [h]

theorem mapFault_count_iff (count : Nat) (zs : List Zone) :
    mapFault count zs = some (1, 0) ↔ countFails count zs = true := by
  unfold mapFault
  split
  case isTrue h => simp [h]
  case isFalse h => simp [h, Option.or_eq_some_iff]

theorem mapFault_fields_iff (count : Nat) (zs : List Zone) (i : Nat) : mapFault count zs = some (2, i) ↔
    countFails count zs = false ∧ firstFailing zs fieldFails = some i := by
  unfold mapFault
  split
  case isTrue h => simp [h]
  case isFalse h => simp [h, Option.or_eq_some_iff]

theorem mapFault_reach_iff (count : Nat) (zs : List Zone) (i : Nat) : mapFault count zs = some (3, i) ↔
    countFails count zs = false ∧ firstFailing zs fieldFails = none ∧ firstFailing zs reachFails = some i := by
  unfold mapFault
  split
  case isTrue h => simp [h]
  case isFalse h => simp [h, Option.or_eq_some_iff]

/-- Settles O53: `mapFault` takes the first of the five tests that fails, and each test is read by its own lemma. -/
theorem mapTests : Obligations.MapTests := by
  intro count zs _ d used counted fields below apart single
  have hcounted : countFails count zs = false ↔ counted := countFails_eq_false_iff count zs
  have hfields : ∀ i, fieldFails i (descriptor zs i) = false ↔ fields i := fun i => fieldFails_eq_false_iff i _
  have hbelow : ∀ i, reachFails i (descriptor zs i) = false ↔ below i := fun i => reachFails_eq_false_iff i _
  have hapart : (∀ i, usedAt zs i → overlapFails zs i (descriptor zs i) = false) ↔
      ∀ i j, j < i → used i → used j → apart i j := by
    constructor
    · exact fun h i j hj hi hused => (overlapFails_eq_false_iff zs hi.1 _).mp (h i hi) j hj hused
    · exact fun h i hi => (overlapFails_eq_false_iff zs hi.1 _).mpr fun j hj hused => h i j hj hi hused
  have hsingle : (∀ i, usedAt zs i → duplicateFails zs i (descriptor zs i) = false) ↔
      ∀ i j, j < i → used i → used j → single i j := by
    constructor
    · exact fun h i j hj hi hused => (duplicateFails_eq_false_iff zs hi).mp (h i hi) j hj hused
    · exact fun h i hi => (duplicateFails_eq_false_iff zs hi).mpr fun j hj hused => h i j hj hi hused
  refine ⟨?valid, ?count, fun i => ?field, fun i => ?reach⟩
  case valid =>
    rw [mapFault_eq_none_iff, hcounted]
    simp only [firstFailing_eq_none_iff]
    rw [hapart, hsingle]
    simp only [hfields, hbelow]
    exact Iff.rfl
  case count => rw [mapFault_count_iff, ← hcounted, Bool.not_eq_false]
  case field =>
    rw [mapFault_fields_iff, hcounted, firstFailing_eq_some_iff, ← Bool.not_eq_false]
    simp only [hfields]
    exact Iff.rfl
  case reach =>
    rw [mapFault_reach_iff, hcounted, firstFailing_eq_none_iff, firstFailing_eq_some_iff, ← Bool.not_eq_false]
    simp only [hfields, hbelow]
    exact Iff.rfl

end Sys2Proof.Machine
end

-- ==== Proofs: the copied cells, the parameters and the focus output (R122 to R125, R159, R166, R198, R201 to R203) ====
section
namespace Sys2Proof.Machine

/-! ## Lanes of a word -/

theorem getLsbD_wordOfLanes (b0 b1 b2 b3 : Byte) (j : Nat) :
    (wordOfLanes b0 b1 b2 b3).getLsbD j = if j < 8 then b0.getLsbD j
      else if j - 8 < 8 then b1.getLsbD (j - 8) else if j - 8 - 8 < 8 then b2.getLsbD (j - 8 - 8)
      else b3.getLsbD (j - 8 - 8 - 8) := by
  rw [wordOfLanes, BitVec.getLsbD_append, BitVec.getLsbD_append, BitVec.getLsbD_append]

/-- Each lane of a word is the byte it was made from. -/
theorem lane_wordOfLanes (b0 b1 b2 b3 : Byte) : lane (wordOfLanes b0 b1 b2 b3) 0 = b0 ∧
    lane (wordOfLanes b0 b1 b2 b3) 1 = b1 ∧ lane (wordOfLanes b0 b1 b2 b3) 2 = b2 ∧
    lane (wordOfLanes b0 b1 b2 b3) 3 = b3 := by
  have hlane : ∀ k (b : Byte), (∀ i, i < 8 → (wordOfLanes b0 b1 b2 b3).getLsbD (8 * k + i) = b.getLsbD i) →
      lane (wordOfLanes b0 b1 b2 b3) k = b := by
    intro k b hbits
    apply BitVec.eq_of_getLsbD_eq
    intro i hi
    rw [lane, BitVec.getLsbD_extractLsb', hbits i hi]
    simp [hi]
  refine ⟨hlane 0 b0 fun i hi => ?_, hlane 1 b1 fun i hi => ?_, hlane 2 b2 fun i hi => ?_, hlane 3 b3 fun i hi => ?_⟩
  · rw [getLsbD_wordOfLanes, if_pos (by omega), show 8 * 0 + i = i by omega]
  · rw [getLsbD_wordOfLanes, if_neg (by omega), if_pos (by omega), show 8 * 1 + i - 8 = i by omega]
  · rw [getLsbD_wordOfLanes, if_neg (by omega), if_neg (by omega), if_pos (by omega),
      show 8 * 2 + i - 8 - 8 = i by omega]
  · rw [getLsbD_wordOfLanes, if_neg (by omega), if_neg (by omega), if_neg (by omega),
      show 8 * 3 + i - 8 - 8 - 8 = i by omega]

/-- A write takes the enabled lanes over the copy (R166). -/
theorem lane_overlay (old new : Word) (lanes : BitVec 4) (k : Nat) (hk : k < 4) :
    lane (overlay old new lanes) k = if lanes.getLsbD k then lane new k else lane old k := by
  obtain ⟨h0, h1, h2, h3⟩ := lane_wordOfLanes
    (if lanes.getLsbD 0 then lane new 0 else lane old 0) (if lanes.getLsbD 1 then lane new 1 else lane old 1)
    (if lanes.getLsbD 2 then lane new 2 else lane old 2) (if lanes.getLsbD 3 then lane new 3 else lane old 3)
  obtain rfl | rfl | rfl | rfl : k = 0 ∨ k = 1 ∨ k = 2 ∨ k = 3 := by omega
  · exact h0
  · exact h1
  · exact h2
  · exact h3

/-- A list of copies with word `k` overlaid. -/
theorem overlayAt_eq_set {l : List Word} {k : Nat} (hk : k < l.length) (d : Word) (e : BitVec 4) :
    overlayAt l k d e = l.set k (overlay (l.getD k 0) d e) := by
  rw [overlayAt, List.modify_eq_set_getElem?]
  simp [hk]

/-! ## The cells of the configuration page -/

/-- An operation that leaves the handling unit asks for no planner run. -/
theorem finish_of_handling {s t : State} (hrun : NoRunDue s) (h : t.handling = s.handling) : finish t = t :=
  finish_idle t (by rw [h]; exact hrun)

/-- The row of a cell's write, served by an open path, where the cell asks for no planner run. -/
theorem exec_cellWrite {c : Instr} (offset : Nat) (w : WordWrite) (hc : busWord c = some (cellWrite offset w))
    {s t : State} (hopen : PageOpen s) (hrun : NoRunDue s) (h4 : offset % 4 = 0) (hl : offset < 0x1000)
    (hcell : watchCell offset w.data w.lanes (cellSeen offset w s) = t) (ht : t.handling = s.handling) :
    exec c s = .next t := by
  rw [exec_of_busWord hc, upstream_cellWrite s hopen offset w h4 hl, hcell, finish_of_handling hrun ht]

theorem watchCell_argument (k : Fin 6) (d : Word) (e : BitVec 4) (s : State) :
    watchCell (0x104 + 4 * k.val) d e s = writeArgument k.val d e s := by
  have hk : (0x104 + 4 * k.val - 0x104) / 4 = k.val := by omega
  rw [watchCell, if_neg (by omega), if_neg (by omega), if_pos (by omega), hk]

theorem watchCell_parameter (n : Fin 128) (d : Word) (e : BitVec 4) (s : State) (hm : s.path.mode = .mapped) :
    watchCell (0x200 + 4 * n.val) d e s = writeParameter n.val d e s := by
  have hn : (0x200 + 4 * n.val - 0x200) / 4 = n.val := by omega
  rw [watchCell, if_neg (by omega), if_neg (by omega), if_neg (by omega), if_neg (by omega), watchMapped,
    if_neg (not_not.mpr hm), if_neg (by omega), if_neg (by omega), if_neg (by omega), if_pos (by omega), hn]

theorem watchCell_parameter_unmapped (n : Fin 128) (d : Word) (e : BitVec 4) (s : State) (hm : s.path.mode ≠ .mapped) :
    watchCell (0x200 + 4 * n.val) d e s = s := by
  rw [watchCell, if_neg (by omega), if_neg (by omega), if_neg (by omega), if_neg (by omega), watchMapped, if_pos hm]

theorem watchMapped_unmapped (offset : Nat) (d : Word) (e : BitVec 4) (s : State) (hm : s.path.mode ≠ .mapped) :
    watchMapped offset d e s = s := if_pos hm

theorem watchMapped_eventConsumer (d : Word) (e : BitVec 4) (s : State) (hm : s.path.mode = .mapped) :
    watchMapped 0x130 d e s = writeEventConsumer d e s := if_neg (not_not.mpr hm)

theorem watchMapped_reportConsumer (d : Word) (e : BitVec 4) (s : State) (hm : s.path.mode = .mapped) :
    watchMapped 0x134 d e s = writeReportConsumer d e s := if_neg (not_not.mpr hm)

theorem watchMapped_windowSelect (d : Word) (e : BitVec 4) (s : State) (hm : s.path.mode = .mapped) :
    watchMapped 0x138 d e s = writeWindowSelect d e s := if_neg (not_not.mpr hm)

/-- A consumer index is taken where its zone is in force and the value is below the size of the ring (R198). -/
theorem writeEventConsumer_of_zone {s : State} {z : Zone} (hz : zoneOf s .events = some z) (d : Word) (e : BitVec 4) :
    writeEventConsumer d e s = if (overlay (word s.cmd.evConsumer) d e).toNat < eventPlaces z
      then { s with cmd := { s.cmd with evConsumer := (overlay (word s.cmd.evConsumer) d e).toNat } } else s := by
  unfold writeEventConsumer
  rw [hz]

theorem writeReportConsumer_of_zone {s : State} {z : Zone} (hz : zoneOf s .reports = some z) (d : Word) (e : BitVec 4) :
    writeReportConsumer d e s = if (overlay (word s.report.consumer) d e).toNat < ringWords z
      then ringTest { s with report := { s.report with consumer := (overlay (word s.report.consumer) d e).toNat } }
      else s := by
  unfold writeReportConsumer
  rw [hz]

/-- Settles O54: each cell's write reaches the function of its unit, by the decoding lemmas above. -/
theorem cellWrites : Obligations.CellWrites := by
  refine ⟨lane_overlay, ?argument, ?always, ?consumers⟩
  case argument =>
    intro k w s hopen hrun hcopies
    have hk : k.val < s.cmd.args.length := by rw [hcopies.1]; exact k.isLt
    refine exec_cellWrite (0x104 + 4 * k.val) w rfl hopen hrun (by omega) (by omega) ?_ rfl
    rw [watchCell_argument, writeArgument]
    exact congrArg (fun l => { cellSeen (0x104 + 4 * k.val) w s with cmd := { s.cmd with args := l } })
      (overlayAt_eq_set hk _ _)
  case always =>
    intro w s hopen hrun
    refine ⟨exec_cellWrite 0x12C w rfl hopen hrun rfl (by decide) rfl rfl, fun hm => ?_, fun hm => ?_⟩
    · exact exec_cellWrite 0x138 w rfl hopen hrun rfl (by decide)
        (watchMapped_windowSelect _ _ (cellSeen 0x138 w s) hm) rfl
    · have hm' : s.path.mode ≠ .mapped := by rw [hm]; decide
      exact ⟨exec_cellWrite 0x138 w rfl hopen hrun rfl (by decide) (watchMapped_unmapped 0x138 _ _ (cellSeen 0x138 w s) hm') rfl,
        exec_cellWrite 0x130 w rfl hopen hrun rfl (by decide) (watchMapped_unmapped 0x130 _ _ (cellSeen 0x130 w s) hm') rfl,
        exec_cellWrite 0x134 w rfl hopen hrun rfl (by decide) (watchMapped_unmapped 0x134 _ _ (cellSeen 0x134 w s) hm') rfl⟩
  case consumers =>
    intro w s hcells hrun ev rep
    have hopen := hcells.opened
    have hevent := watchMapped_eventConsumer w.data w.lanes (cellSeen 0x130 w s) hcells.mapped
    have hreport := watchMapped_reportConsumer w.data w.lanes (cellSeen 0x134 w s) hcells.mapped
    refine ⟨fun z hz hlt => ?_, fun hnone => ?_, fun z hz hlt => ?_, fun hnone => ?_⟩
    · have hz' : zoneOf (cellSeen 0x130 w s) .events = some z := hz
      have htaken := (writeEventConsumer_of_zone hz' w.data w.lanes).trans (if_pos hlt)
      exact exec_cellWrite 0x130 w rfl hopen hrun rfl (by decide) (hevent.trans htaken) rfl
    · refine exec_cellWrite 0x130 w rfl hopen hrun rfl (by decide) (hevent.trans ?_) rfl
      cases hz : zoneOf s .events with
      | none =>
        have hz' : zoneOf (cellSeen 0x130 w s) .events = none := hz
        rw [writeEventConsumer, hz']
      | some z =>
        have hz' : zoneOf (cellSeen 0x130 w s) .events = some z := hz
        exact (writeEventConsumer_of_zone hz' w.data w.lanes).trans (if_neg (Nat.not_lt.mpr (hnone z hz)))
    · have hz' : zoneOf (cellSeen 0x134 w s) .reports = some z := hz
      have htaken := (writeReportConsumer_of_zone hz' w.data w.lanes).trans (if_pos hlt)
      exact exec_cellWrite 0x134 w rfl hopen hrun rfl (by decide) (hreport.trans htaken) (ringTest_handling _)
    · refine exec_cellWrite 0x134 w rfl hopen hrun rfl (by decide) (hreport.trans ?_) rfl
      cases hz : zoneOf s .reports with
      | none =>
        have hz' : zoneOf (cellSeen 0x134 w s) .reports = none := hz
        rw [writeReportConsumer, hz']
      | some z =>
        have hz' : zoneOf (cellSeen 0x134 w s) .reports = some z := hz
        exact (writeReportConsumer_of_zone hz' w.data w.lanes).trans (if_neg (Nat.not_lt.mpr (hnone z hz)))

/-! ## The value of a parameter in force (R201 to R203) -/

theorem clamp_bounds {lo hi : Int} (h : lo ≤ hi) (v : Int) : lo ≤ clamp lo hi v ∧ clamp lo hi v ≤ hi := by
  unfold clamp
  split
  · omega
  · split <;> omega

theorem clamp_of_within {lo hi v : Int} (hlo : lo ≤ v) (hhi : v ≤ hi) : clamp lo hi v = v := by
  rw [clamp, if_neg (by omega), if_neg (by omega)]

/-- From word 84 on the words are ignored (R201). -/
theorem paramRange_of_ge {n : Nat} (h : 84 ≤ n) : paramRange n = none := by
  rw [paramRange, if_neg (by omega), if_neg (by omega), if_neg (by omega), if_neg (by omega)]

/-- Each default lies within its range. -/
theorem paramRange_ordered {n : Nat} {r : ParamRange} (h : paramRange n = some r) :
    r.low ≤ r.default ∧ r.default ≤ r.high := by
  have htable : ∀ n, n < 84 → (paramRange n).all (fun r => decide (r.low ≤ r.default ∧ r.default ≤ r.high)) = true := by
    decide
  by_cases hn : n < 84
  · have hall := htable n hn
    rw [h, Option.all_some, decide_eq_true_eq] at hall
    exact hall
  · rw [paramRange_of_ge (by omega)] at h
    cases h

theorem inForce_of_range {n : Nat} {r : ParamRange} (h : paramRange n = some r) (raw : Word) :
    inForce n raw = if raw = defaultMark then r.default else clamp r.low r.high raw.toInt := by
  unfold inForce
  rw [h]

theorem inForce_bounds {n : Nat} {r : ParamRange} (h : paramRange n = some r) (raw : Word) :
    r.low ≤ inForce n raw ∧ inForce n raw ≤ r.high := by
  obtain ⟨hlow, hhigh⟩ := paramRange_ordered h
  rw [inForce_of_range h]
  split
  · exact ⟨hlow, hhigh⟩
  · exact clamp_bounds (hlow.trans hhigh) _

theorem isClamped_of_range {n : Nat} {r : ParamRange} (h : paramRange n = some r) (raw : Word) :
    isClamped n raw = true ↔ ¬ (raw = 0x80000000#32 ∨ (r.low ≤ raw.toInt ∧ raw.toInt ≤ r.high)) := by
  unfold isClamped
  rw [h]
  simp only [Bool.and_eq_true, Bool.or_eq_true, bne_iff_ne, decide_eq_true_eq, defaultMark, not_or]
  refine and_congr_right fun _ => ?_
  omega

/-- A parameter's write where the word has one (R202). -/
theorem writeParameter_of_range {s : State} {n : Nat} {r : ParamRange} (h : paramRange n = some r)
    (hn : n < s.cmd.paramRaw.length) (d : Word) (e : BitVec 4) :
    let old := s.cmd.paramRaw.getD n 0
    let raw := overlay old d e
    let u := { s with cmd := { s.cmd with paramRaw := s.cmd.paramRaw.set n raw } }
    writeParameter n d e s = clampEvent n raw
      (if (n = 16 ∨ n = 17) ∧ inForce n old ≠ inForce n raw then reclampOutput u else u) := by
  intro old raw u
  have hcopied : overlayAt s.cmd.paramRaw n d e = s.cmd.paramRaw.set n raw := overlayAt_eq_set hn d e
  have hraw : (s.cmd.paramRaw.set n raw).getD n 0 = raw := by simp [hn]
  have hparam : param u n = inForce n raw := congrArg (inForce n) hraw
  unfold writeParameter
  rw [h]
  simp only [hcopied, hraw]
  change clampEvent n raw (if (isBoundWord n && param s n != param u n) = true then reclampOutput u else u) = _
  rw [hparam]
  simp only [isBoundWord, Bool.and_eq_true, Bool.or_eq_true, beq_iff_eq, bne_iff_ne]
  rfl

/-- Settles O55: `writeParameter_of_range` for the row, and the table of R201 word by word. -/
theorem parameterWrite : Obligations.ParameterWrite := by
  refine ⟨?row, ?transparent, ?table, ?value⟩
  case row =>
    intro n w s hcells hrun hcopies old raw u bound renewed
    have hdecoded := watchCell_parameter n w.data w.lanes (cellSeen (0x200 + 4 * n.val) w s) hcells.mapped
    have hexec : ∀ t, writeParameter n.val w.data w.lanes (cellSeen (0x200 + 4 * n.val) w s) = t →
        t.handling = s.handling → exec (.parameterWrite n w) s = .next t := fun t h =>
      exec_cellWrite (0x200 + 4 * n.val) w rfl hcells.opened hrun (by omega) (by omega) (hdecoded.trans h)
    refine ⟨fun hnone => hexec _ (by rw [writeParameter, hnone]) rfl, ?_⟩
    intro r hr taken
    have hrenewed : renewed.handling = s.handling := by
      change (if bound ∧ inForce n.val old ≠ inForce n.val raw then reclampOutput u else u).handling = _
      split
      · exact setOutput_handling u _
      · rfl
    have hlength : n.val < (cellSeen (0x200 + 4 * n.val) w s).cmd.paramRaw.length := Nat.lt_of_lt_of_eq n.isLt hcopies.2.symm
    have hwrite : writeParameter n.val w.data w.lanes (cellSeen (0x200 + 4 * n.val) w s) =
        clampEvent n.val raw renewed := writeParameter_of_range hr hlength _ _
    have hclamped := isClamped_of_range hr raw
    refine ⟨fun htaken => hexec _ (hwrite.trans (if_neg ?_)) hrenewed, fun htaken => hexec _ (hwrite.trans (if_pos ?_)) ?_⟩
    · exact fun h => hclamped.mp h htaken
    · exact hclamped.mpr htaken
    · rw [postEvent_handling, hrenewed]
  case transparent =>
    intro n w s hopen hrun hm
    have hm' : s.path.mode ≠ .mapped := by rw [hm]; decide
    exact exec_cellWrite (0x200 + 4 * n.val) w rfl hopen hrun (by omega) (by omega) (watchCell_parameter_unmapped _ _ _ _ hm') rfl
  case table =>
    intro table
    refine ⟨fun n default low high hmem => ?_, fun n hnone => ?_⟩
    · have hrows : table.map (fun row => paramRange row.1) =
          table.map (fun row => some ⟨row.2.1, row.2.2.1, row.2.2.2⟩) := rfl
      exact List.map_inj_left.mp hrows _ hmem
    · by_cases hn : n < 84
      · have hwords : ∀ n, n < 84 → paramRange n = none ∨ n ∈ table.map (·.1) := by
          have hsome : ∀ n, n < 84 → (paramRange n).isNone = true ∨ n ∈ table.map (·.1) := by decide
          exact fun n hn => (hsome n hn).imp_left Option.isNone_iff_eq_none.mp
        refine (hwords n hn).resolve_right fun hmem => ?_
        obtain ⟨row, hrow, heq⟩ := List.mem_map.mp hmem
        exact hnone row hrow heq
      · exact paramRange_of_ge (by omega)
  case value =>
    intro n raw r hr
    obtain ⟨hlow, hhigh⟩ := inForce_bounds hr raw
    refine ⟨hlow, hhigh, ?_⟩
    rw [inForce_of_range hr, defaultMark]
    refine ⟨fun h => if_pos h, fun h hlo hhi => ?_, fun h hlo => ?_, fun h hhi => ?_⟩
    · rw [if_neg h, clamp_of_within hlo hhi]
    · rw [if_neg h, clamp, if_pos hlo]
    · obtain ⟨hdlow, hdhigh⟩ := paramRange_ordered hr
      rw [if_neg h, clamp, if_neg (by omega), if_pos hhi]

/-! ## The focus output -/

theorem guardHolds_eq_false_iff (s : State) : guardHolds s = false ↔ s.guard.state = .normal := by
  rw [guardHolds, bne_eq_false_iff_eq]

theorem guardHolds_eq_true_iff (s : State) : guardHolds s = true ↔ s.guard.state ≠ .normal := by
  rw [guardHolds, bne_iff_ne]

theorem setOutput_of_held {s : State} (h : guardHolds s = true) (v : Int) : setOutput v s = s := if_pos h

theorem setOutput_of_free {s : State} (h : guardHolds s = false) (v : Int) :
    setOutput v s = driveOutput (clamp (param s 16) (param s 17) v) (renewBounds s) :=
  if_neg (Bool.eq_false_iff.mp h)

/-- The lower bound of the output is never above 0, and the upper one never below (R201). -/
theorem outputBounds (s : State) : param s 16 ≤ 0 ∧ 0 ≤ param s 17 :=
  ⟨(inForce_bounds (n := 16) rfl _).2, (inForce_bounds (n := 17) rfl _).1⟩

theorem settingsOf_eq {s : State} {i : Nat} {w : Wafer} {l : Lot} (hw : waferAt s i = some w)
    (hl : lotOfRun s w.run = some l) : settingsOf s i = l.settings := by
  rw [settingsOf, lotOfWafer, hw, Option.bind_some, hl, Option.bind_some]

/-- Settles O44. -/
theorem focusOutput : Obligations.FocusOutput := by
  refine ⟨fun v s => ?set, reclampOutput_eq_setOutput, fun s z => ⟨fun h => ?idle, fun h hp => ?pred, ?locked⟩⟩
  case set =>
    intro lo hi c
    refine ⟨(outputBounds s).1, (outputBounds s).2, fun hheld => ?_, fun hfree heq => ?_, fun hfree hne => ?_⟩
    · exact setOutput_of_held ((guardHolds_eq_true_iff s).mpr hheld) v
    · rw [setOutput_of_free ((guardHolds_eq_false_iff s).mpr hfree)]
      exact if_pos heq
    · rw [setOutput_of_free ((guardHolds_eq_false_iff s).mpr hfree)]
      exact if_neg hne
  case idle => rw [calledFor, h]
  case pred => obtain h | h | h := h <;> rw [calledFor, h, hp, Option.getD_some]
  case locked =>
    intro v w l st h hv hw hl hst
    rw [calledFor, h, visitOffset, hv]
    simp only [settingsOf_eq hw hl, hst, Option.map_some, Option.getD_some]
    rfl

end Sys2Proof.Machine
end

-- ==== Proofs: lookups of wafers and lots, and the rows of commands (R188) ====
section
namespace Sys2Proof.Machine

/-! ## The wafer table -/

theorem lt_of_waferAt {s : State} {i : Nat} {w : Wafer} (h : waferAt s i = some w) : i < s.wafers.length := by
  by_contra hlt
  rw [waferAt, List.getD_eq_default _ _ (Nat.le_of_not_lt hlt)] at h
  cases h

/-- The records alone say which wafer has one. -/
theorem waferAt_congr {s t : State} (h : t.wafers = s.wafers) (i : Nat) : waferAt t i = waferAt s i := by
  rw [waferAt, waferAt, h]

@[simp] theorem waferAt_updWafer_same (i : Nat) (f : Wafer → Wafer) (s : State) :
    waferAt (updWafer i f s) i = (waferAt s i).map f := by
  simp only [waferAt, updWafer, List.getD_eq_getElem?_getD, List.getElem?_modify_eq]
  cases s.wafers[i]? <;> rfl

theorem waferAt_updWafer_ne {i j : Nat} (h : j ≠ i) (f : Wafer → Wafer) (s : State) :
    waferAt (updWafer i f s) j = waferAt s j := by
  simp only [waferAt, updWafer, List.getD_eq_getElem?_getD, List.getElem?_modify_ne (Option.map f) s.wafers (Ne.symm h)]

/-- A change of a record depends on what it makes of that record alone. -/
theorem updWafer_congr {s : State} {i : Nat} {w : Wafer} (h : waferAt s i = some w) {f g : Wafer → Wafer}
    (hfg : f w = g w) : updWafer i f s = updWafer i g s := by
  have hmodify : s.wafers.modify i (Option.map f) = s.wafers.modify i (Option.map g) := by
    refine List.ext_getElem? fun j => ?_
    rw [List.getElem?_modify, List.getElem?_modify]
    by_cases hj : i = j
    · subst hj
      have hlt := lt_of_waferAt h
      have hw : s.wafers[i]? = some (some w) := by
        rw [waferAt, List.getD_eq_getElem _ _ hlt] at h
        rw [List.getElem?_eq_getElem hlt, h]
      rw [hw]
      simp [hfg]
    · simp [hj]
  rw [updWafer, updWafer, hmodify]

theorem updWafer_updWafer (i : Nat) (f g : Wafer → Wafer) (s : State) :
    updWafer i g (updWafer i f s) = updWafer i (fun w => g (f w)) s := by
  have hmodify : (s.wafers.modify i (Option.map f)).modify i (Option.map g) =
      s.wafers.modify i (Option.map fun w => g (f w)) := by
    rw [List.modify_modify_eq]
    congr 1
    funext o
    cases o <;> rfl
  exact congrArg (fun ws => { s with wafers := ws }) hmodify

/-- A wafer's move, where it has a record (R21, R129). -/
theorem moveWafer_of_wafer {s : State} {i : Nat} {w : Wafer} (h : waferAt s i = some w) (l : Location) :
    moveWafer i l s = if w.location = .stage ∧ l ≠ .stage
      then stageDeparture w.run (updWafer i (fun w => { w with location := l }) s)
      else updWafer i (fun w => { w with location := l }) s := by
  rw [moveWafer, h]

/-- Settles O22. -/
theorem waferMoves : Obligations.WaferMoves := by
  intro i l s w hw t
  have hmove : t = if w.location = .stage ∧ l ≠ .stage
      then stageDeparture w.run (updWafer i (fun w => { w with location := l }) s)
      else updWafer i (fun w => { w with location := l }) s := moveWafer_of_wafer hw l
  have hwafers : t.wafers = (updWafer i (fun w => { w with location := l }) s).wafers := by
    rw [hmove]
    split <;> rfl
  refine ⟨?_, fun j hj => ?_, fun hstays => ?_, fun hstage hl => ?_⟩
  · rw [waferAt_congr hwafers, waferAt_updWafer_same, hw, Option.map_some]
  · rw [waferAt_congr hwafers, waferAt_updWafer_ne hj]
  · rw [hwafers, hmove, if_neg fun h => hstays.elim (fun hne => hne h.1) h.2]
    rfl
  · rw [hwafers, hmove, if_pos ⟨hstage, hl⟩]
    simp [stageDeparture, updWafer, meanOf]

/-! ## The lot queue -/

theorem lotList_eq_nil_iff (s : State) : lotList s = [] ↔ s.lots = ⟨none, none⟩ := by
  rw [lotList]
  obtain ⟨active, second⟩ := s.lots
  cases active <;> cases second <;> simp

theorem lotList_isEmpty_iff (s : State) : (lotList s).isEmpty = true ↔ s.lots = ⟨none, none⟩ :=
  List.isEmpty_iff.trans (lotList_eq_nil_iff s)

/-! ## The rows of commands -/

theorem busWord_commandRow (v : BitVec 8) (w : CommandWrite) : busWord (commandRow v w) = some (commandWrite v w) := by
  have hvalue : ∀ n (hn : n < 2 ^ 8), v.toNat = n → v = ⟨n, hn⟩ := fun n hn h => BitVec.eq_of_toNat_eq h
  unfold commandRow
  split
  next h => exact hvalue 1 (by decide) h ▸ rfl
  next h => exact hvalue 2 (by decide) h ▸ rfl
  next h => exact hvalue 3 (by decide) h ▸ rfl
  next h => exact hvalue 4 (by decide) h ▸ rfl
  next h => exact hvalue 5 (by decide) h ▸ rfl
  next h => exact hvalue 6 (by decide) h ▸ rfl
  next h => exact hvalue 7 (by decide) h ▸ rfl
  next h => exact hvalue 8 (by decide) h ▸ rfl
  next h => exact hvalue 9 (by decide) h ▸ rfl
  next h => exact hvalue 10 (by decide) h ▸ rfl
  next h => exact hvalue 11 (by decide) h ▸ rfl
  next h => exact hvalue 12 (by decide) h ▸ rfl
  next h => exact hvalue 13 (by decide) h ▸ rfl
  next => rfl

/-- The row of a command that a test of R188 refuses. -/
theorem exec_refused {c : Instr} {v : BitVec 8} {w : CommandWrite} (hc : busWord c = some (commandWrite v w))
    {s : State} (hopen : PageOpen s) (hrun : NoRunDue s) {code : CommandCode}
    (h : firstRefusal v (commandSeen v w s) = some code) : exec c s = .next (answer code (commandSeen v w s)) := by
  rw [exec_of_busWord hc, upstream_command s hopen, h]
  exact congrArg _ (finish_of_handling hrun rfl)

/-- The row of a command that passes the tests of R188. -/
theorem exec_carryOut {c : Instr} {v : BitVec 8} {w : CommandWrite} (hc : busWord c = some (commandWrite v w))
    {s : State} (hopen : PageOpen s) (h : firstRefusal v (commandSeen v w s) = none) :
    exec c s = .next (finish (carryOut v.toNat (commandSeen v w s))) := by
  rw [exec_of_busWord hc, upstream_command s hopen, h]

/-- The tests of R188 look at no part that sees the command. -/
theorem firstRefusal_commandSeen (v : BitVec 8) (w : CommandWrite) (s : State) :
    firstRefusal v (commandSeen v w s) = firstRefusal v s := rfl

/-- A part that takes commands refuses none of the thirteen. -/
theorem firstRefusal_of_takesCommands {s : State} (h : TakesCommands s) {v : BitVec 8} (hlow : 1 ≤ v.toNat)
    (hhigh : v.toNat ≤ 13) (w : CommandWrite) : firstRefusal v (commandSeen v w s) = none := by
  rw [firstRefusal_commandSeen, firstRefusal, h.notResetting, if_neg Bool.false_ne_true, if_neg (by omega), h.mapped,
    h.noLotStart]
  rfl

/-- The row of a command in a part that takes it: what the command does in the state that has seen it. -/
theorem exec_command {s t : State} (h : TakesCommands s) {c : Instr} {w : CommandWrite} (v : BitVec 8)
    (hc : busWord c = some (commandWrite v w)) (hlow : 1 ≤ v.toNat) (hhigh : v.toNat ≤ 13)
    (hdone : carryOut v.toNat (commandSeen v w s) = t) : exec c s = .next (finish t) :=
  hdone ▸ exec_carryOut hc h.opened (firstRefusal_of_takesCommands h hlow hhigh w)

/-- The same, where the command leaves the handling unit as it is. -/
theorem exec_command_of_handling {s t : State} (h : TakesCommands s) {c : Instr} {w : CommandWrite} (v : BitVec 8)
    (hc : busWord c = some (commandWrite v w)) (hlow : 1 ≤ v.toNat) (hhigh : v.toNat ≤ 13)
    (hdone : carryOut v.toNat (commandSeen v w s) = t) (ht : t.handling = s.handling) : exec c s = .next t := by
  rw [exec_command h v hc hlow hhigh hdone, finish_of_handling h.noRunDue ht]

/-- Settles O10: the first test of `firstRefusal` that holds. -/
theorem commandTests : Obligations.CommandTests := by
  intro v w s hopen hrun refusedWith
  have hrow := busWord_commandRow v w
  have hrefused : ∀ code, firstRefusal v (commandSeen v w s) = some code → refusedWith code := fun code h =>
    exec_refused hrow hopen hrun h
  refine ⟨fun hreset => hrefused _ (if_pos hreset), fun hreset hv => ?_, fun hreset hlow hhigh hmode => hrefused _ ?_,
    fun hreset hlow hhigh hmode hlot => hrefused _ ?_⟩
  · refine exec_refused rfl hopen hrun ?_
    rw [firstRefusal_commandSeen, firstRefusal, if_neg (Bool.eq_false_iff.mp hreset), if_pos hv]
  · have hne : ∀ k : BitVec 8, 11 < k.toNat → v ≠ k := fun k hk heq => by subst heq; omega
    rw [firstRefusal_commandSeen, firstRefusal, if_neg (Bool.eq_false_iff.mp hreset), if_neg (by omega),
      if_pos ⟨hmode, hne 12 (by decide), hne 13 (by decide)⟩]
  · have h13 : v ≠ 13 := fun heq => by subst heq; exact absurd hhigh (by decide)
    have hmap : ¬ (s.path.mode = .transparent ∧ v ≠ 12 ∧ v ≠ 13) := by
      rintro ⟨htrans, h12, -⟩
      rcases hmode with hmode | hmode
      · exact absurd (hmode.symm.trans htrans) (by decide)
      · exact h12 (BitVec.eq_of_toNat_eq hmode)
    rw [firstRefusal_commandSeen, firstRefusal, if_neg (Bool.eq_false_iff.mp hreset), if_neg (by omega), if_neg hmap, if_pos ⟨hlot, h13⟩]

/-! ## LOT_RELEASE -/

theorem releaseLots_of_none_held {s : State} (h : ∀ l ∈ lotList s, l.state ≠ .held) : releaseLots s = s := by
  refine if_neg fun hany => ?_
  obtain ⟨l, hl, hheld⟩ := List.any_eq_true.mp hany
  exact h l hl (beq_iff_eq.mp hheld)

theorem releaseLots_of_held {s : State} (h : ∃ l ∈ lotList s, l.state = .held) : releaseLots s =
    wantPlan { s with lots := ⟨s.lots.active.map (releaseTo .active), s.lots.second.map (releaseTo .pending)⟩ } := by
  obtain ⟨l, hl, hheld⟩ := h
  exact if_pos (List.any_eq_true.mpr ⟨l, hl, by rw [hheld]; rfl⟩)

/-- Settles O15. -/
theorem lotRelease : Obligations.LotRelease := by
  intro w s h u ok freed
  have hlots : lotList u = lotList s := rfl
  refine ⟨fun hempty => ?_, fun hsome hnone => ?_, fun hheld => ?_⟩
  · exact exec_command_of_handling h 3 rfl (by decide) (by decide)
      (if_pos ((lotList_isEmpty_iff u).mpr hempty)) rfl
  · refine exec_command_of_handling h 3 rfl (by decide) (by decide)
      ((if_neg fun he => hsome ((lotList_isEmpty_iff u).mp he)).trans ?_) rfl
    exact releaseLots_of_none_held (s := ok) hnone
  · have hsome : ¬ (lotList u).isEmpty = true := by
      obtain ⟨l, hl, -⟩ := hheld
      rw [hlots, List.isEmpty_iff]
      exact List.ne_nil_of_mem hl
    have hdone : carryOut 3 u = wantPlan { ok with
        lots := ⟨s.lots.active.map (releaseTo .active), s.lots.second.map (releaseTo .pending)⟩ } :=
      (if_neg hsome).trans (releaseLots_of_held (s := ok) hheld)
    exact exec_command h 3 rfl (by decide) (by decide) hdone

end Sys2Proof.Machine
end

-- ==== Proofs: commands on wafers and on the hold set (R18, R30, R66, R84, R109, R110, R145) ====
section
namespace Sys2Proof.Machine

/-! ## Places -/

theorem findWafer_eq_none_iff (s : State) (p : Wafer → Bool) :
    findWafer s p = none ↔ ∀ i w, i < 50 → waferAt s i = some w → p w = false := by
  rw [findWafer, List.find?_eq_none]
  constructor
  · intro h i w hi hw
    have hnot := h i (List.mem_range.mpr hi)
    rwa [hw, Option.any_some, Bool.not_eq_true] at hnot
  · intro h i hi hany
    obtain ⟨w, hw, hp⟩  : ∃ w, waferAt s i = some w ∧ p w = true := by rwa [Option.any_eq_true] at hany
    exact absurd hp (Bool.eq_false_iff.mp (h i w (List.mem_range.mp hi) hw))

/-- A place is empty where no record names it (R21). -/
theorem isEmptyPlace_iff (s : State) (l : Location) :
    isEmptyPlace s l = true ↔ ∀ i w, i < 50 → waferAt s i = some w → w.location ≠ l := by
  rw [isEmptyPlace, Option.isNone_iff_eq_none, waferIn, findWafer_eq_none_iff]
  simp only [beq_eq_false_iff_ne]

/-! ## The wafer that A0 names -/

theorem namedWafer_of_lt {s : State} (h : namedIndex s < 50) : namedWafer s = waferAt s (namedIndex s) := if_pos h

theorem namedWafer_of_ge {s : State} (h : 50 ≤ namedIndex s) : namedWafer s = none := if_neg (Nat.not_lt.mpr h)

/-- No wafer with a property is named, where A0 is too great or its wafer lacks it. -/
theorem not_of_namedWafer {s : State} {p : Wafer → Prop}
    (h : 50 ≤ namedIndex s ∨ ∀ x, waferAt s (namedIndex s) = some x → ¬ p x) {x : Wafer}
    (hx : namedWafer s = some x) : ¬ p x := by
  by_cases hi : namedIndex s < 50
  · exact h.resolve_left (Nat.not_le.mpr hi) x (namedWafer_of_lt hi ▸ hx)
  · rw [namedWafer_of_ge (Nat.not_lt.mp hi)] at hx
    cases hx

/-! ## REVIEW_END -/

/-- Settles O19. -/
theorem reviewEndCommand : Obligations.ReviewEndCommand := by
  intro w s h u ok i closed ended
  refine ⟨fun hnot => ?_, fun x hi hx hopen => ⟨fun hset => ?_, fun hclear hoff => ?_, fun hclear hphase hstage => ?_⟩⟩
  · refine exec_command_of_handling h 6 rfl (by decide) (by decide) (?_ : cmdReviewEnd u = answer .notReviewing u) rfl
    unfold cmdReviewEnd
    cases hx : namedWafer u with
    | none => rfl
    | some x =>
      have hclosed : closed x := by
        refine not_not.mp (not_of_namedWafer (s := u) (p := fun x => ¬ closed x) ?_ hx)
        exact hnot.imp_right fun hall x hx => not_not.mpr (hall x hx)
      exact if_pos hclosed
  all_goals
    have hnamed : namedWafer u = some x := (namedWafer_of_lt (s := u) hi).trans hx
    have hpass : cmdReviewEnd u = endReview i x ok := by
      unfold cmdReviewEnd
      rw [hnamed]
      exact if_neg hopen
  · exact exec_command_of_handling h 6 rfl (by decide) (by decide) (hpass.trans (if_pos hset)) rfl
  · refine exec_command_of_handling h 6 rfl (by decide) (by decide)
      (hpass.trans ((if_neg (Bool.eq_false_iff.mp hclear)).trans (if_neg ?_))) rfl
    exact fun hboth => hoff.elim (fun hne => hne hboth.1) fun hne => hne hboth.2
  · exact exec_command h 6 rfl (by decide) (by decide)
      (hpass.trans ((if_neg (Bool.eq_false_iff.mp hclear)).trans (if_pos ⟨hphase, hstage⟩)))

/-! ## REALIGN -/

/-- A realignment starts for a wafer with a record (R65, R66). -/
theorem startRealign_of_wafer {s : State} {i : Nat} {w : Wafer} (h : waferAt s i = some w) (cause : Nat) :
    startRealign i cause s = postEvent .realignNeeded (some i) (word cause) (packPair w.drift.x w.drift.y)
      { updWafer i (fun w => { w with align := { emptied .collecting w.align with kind := .realign, used := 0 } }) s with
        visit := { s.visit with hold := { s.visit.hold with align := some i } } } := by
  rw [startRealign, h]
  rfl

/-- Settles O20. -/
theorem realign : Obligations.Realign := by
  intro w s h u ok i may
  refine ⟨fun hnot => ?_, fun x hi hx hmay => ?_⟩
  · refine exec_command_of_handling h 9 rfl (by decide) (by decide) (?_ : cmdRealign u = answer .notReviewing u) rfl
    unfold cmdRealign
    cases hx : namedWafer u with
    | none => rfl
    | some x =>
      have hnot' : ¬ may x := not_of_namedWafer (s := u) hnot hx
      refine if_pos ?_
      by_contra hneither
      rw [not_or, not_not, Bool.not_eq_true] at hneither
      exact hnot' hneither
  · have hnamed : namedWafer u = some x := (namedWafer_of_lt (s := u) hi).trans hx
    have hpass : cmdRealign u = if x.align.state ≠ .none then ok else startRealign i 2 ok := by
      unfold cmdRealign
      rw [hnamed]
      refine if_neg ?_
      rw [not_or, not_not, Bool.not_eq_true]
      exact hmay
    refine ⟨fun hopen => ?_, fun hnone => ?_⟩
    · exact exec_command_of_handling h 9 rfl (by decide) (by decide) (hpass.trans (if_pos hopen)) rfl
    · refine exec_command_of_handling h 9 rfl (by decide) (by decide)
        (hpass.trans ((if_neg (not_not.mpr hnone)).trans (startRealign_of_wafer (s := ok) hx 2))) ?_
      exact postEvent_handling _ _ _ _ _

/-! ## WAFER_ABORT -/

/-- An abort completes for a marked wafer in its review, with no visit of it in flight (R18, R111). -/
theorem completeAbort_of_wafer {s : State} {i : Nat} {w : Wafer} (h : waferAt s i = some w)
    (haborting : w.aborting = true) (hphase : w.phase = .aligning ∨ w.phase = .reviewing) :
    completeAbort i s = if visitOf s i then s else enterReviewDone i .aborted s := by
  rw [completeAbort, h]
  have hreview : (w.phase == .aligning || w.phase == .reviewing) = true := by
    rcases hphase with hp | hp <;> rw [hp] <;> rfl
  simp only [haborting, hreview, Bool.true_and, Bool.not_eq_true']
  cases visitOf s i <;> rfl

theorem visitOf_of_none {s : State} {i : Nat} (h : ∀ v, s.visit.current = some v → v.wafer ≠ i) :
    visitOf s i = false := by
  unfold visitOf
  cases hv : s.visit.current with
  | none => rfl
  | some v => exact beq_eq_false_iff_ne.mpr (h v hv)

theorem visitOf_of_some {s : State} {v : Visit} (h : s.visit.current = some v) : visitOf s v.wafer = true := by
  rw [visitOf, h, Option.any_some, beq_self_eq_true]

/-- Settles O18: the abort by the visit in flight, `abortVisit` before `completeAbort`. -/
theorem waferAbort : Obligations.WaferAbort := by
  intro w s h u ok i inReview marked
  refine ⟨fun hnot => ?_, fun x hi hx hreview => ?_⟩
  · refine exec_command_of_handling h 5 rfl (by decide) (by decide) (?_ : cmdWaferAbort u = answer .notReviewing u) rfl
    unfold cmdWaferAbort
    cases hx : namedWafer u with
    | none => rfl
    | some x => exact if_neg (not_of_namedWafer (s := u) (p := inReview) hnot hx)
  · have hnamed : namedWafer u = some x := (namedWafer_of_lt (s := u) hi).trans hx
    have hx' : waferAt ok i = some x := hx
    have habort : cmdWaferAbort u = abortWafer i ok := by
      unfold cmdWaferAbort
      rw [hnamed]
      exact if_pos hreview
    have hmarked : dropAttempt i (updWafer i (fun w => { w with aborting := true }) ok) = marked :=
      updWafer_updWafer i _ _ ok
    have hfirst : x.aborting = false → cmdWaferAbort u = completeAbort i (abortVisit i marked) := by
      intro hclear
      rw [habort, abortWafer, hx']
      simp only [hclear, Bool.false_eq_true, if_false, hmarked]
    have hrecord : waferAt marked i = some { x with
        aborting := true
        align := { x.align with state := .none, primary := none, secondary := none, checks := [] } } := by
      rw [waferAt_updWafer_same, hx', Option.map_some]
    have hcomplete := completeAbort_of_wafer hrecord rfl hreview
    refine ⟨fun hset => ?_, fun hclear hnovisit => ?_, fun v hclear hv hvi => ⟨fun hgrabbed => ?_, fun hfree => ?_⟩⟩
    · refine exec_command_of_handling h 5 rfl (by decide) (by decide) (habort.trans ?_) rfl
      rw [abortWafer, hx']
      exact if_pos hset
    · refine exec_command h 5 rfl (by decide) (by decide) ((hfirst hclear).trans ?_)
      have hsame : abortVisit i marked = marked := by
        unfold abortVisit
        cases hv : marked.visit.current with
        | none => rfl
        | some v => exact if_neg fun hboth => hnovisit v hv hboth.1
      rw [hsame, hcomplete, visitOf_of_none (s := marked) hnovisit]
      rfl
    · refine exec_command_of_handling h 5 rfl (by decide) (by decide) ((hfirst hclear).trans ?_) rfl
      have hv' : marked.visit.current = some v := hv
      have hsame : abortVisit i marked = marked := by
        rw [abortVisit, hv']
        exact if_neg fun hboth => hboth.2 hgrabbed
      rw [hsame, hcomplete, ← hvi, visitOf_of_some hv', if_pos rfl]
    · refine exec_command h 5 rfl (by decide) (by decide) ((hfirst hclear).trans (congrArg (completeAbort i) ?_))
      have hv' : marked.visit.current = some v := hv
      rw [abortVisit, hv']
      exact if_pos ⟨hvi, hfree⟩

/-! ## RECOVER_WAFER -/

theorem placeOfCode_eq (n : Nat) : placeOfCode n = [Location.slot, .armU, .armL, .pa, .ll, .stage][n]? := by
  match n with
  | 0 | 1 | 2 | 3 | 4 | 5 => rfl
  | n + 6 => rfl

theorem canRecoverTo_iff (s : State) (l : Location) : canRecoverTo s l = true ↔
    l = .slot ∨ ∀ j x, j < 50 → waferAt s j = some x → x.location ≠ l := by
  rw [canRecoverTo, Bool.or_eq_true, beq_iff_eq, isEmptyPlace_iff]

/-- Settles O21. -/
theorem recoverWafer : Obligations.RecoverWafer := by
  intro w s h u ok i lost free place answered
  have hplace : recoverPlace u = place.filter (canRecoverTo u) := congrArg _ (placeOfCode_eq _)
  have hfree : ∀ l, canRecoverTo u l = true ↔ free l := canRecoverTo_iff u
  have hlost : (namedWafer u).any (fun w => w.location == .unknown) = true ↔ lost := by
    by_cases hi : i < 50
    · rw [namedWafer_of_lt (s := u) hi, Option.any_eq_true]
      simp only [beq_iff_eq]
      exact ⟨fun hw => ⟨hi, hw⟩, fun hw => hw.2⟩
    · rw [namedWafer_of_ge (s := u) (Nat.not_lt.mp hi)]
      exact ⟨fun hf => (Bool.false_ne_true hf).elim, fun hw => absurd hw.1 hi⟩
  have hanswer : ∀ c, cmdRecoverWafer u = answer c u → answered c := fun c hc =>
    exec_command_of_handling h 11 rfl (by decide) (by decide) hc rfl
  have hpass : s.handling.state = .halted → lost → cmdRecoverWafer u = match recoverPlace u with
      | none => answer .occupied u
      | some l => recover i l ok := by
    intro hhalted hl
    exact (if_neg (not_not.mpr hhalted)).trans (if_pos (hlost.mpr hl))
  refine ⟨fun hnot => hanswer _ (if_pos hnot), fun hhalted hnot => hanswer _ ?_, fun hhalted hl hnone => hanswer _ ?_,
    fun l x hhalted hl hp hf hx => ?_⟩
  · exact (if_neg (not_not.mpr hhalted)).trans (if_neg fun hl => hnot (hlost.mp hl))
  · have hno : recoverPlace u = none := by
      rw [hplace, Option.filter_eq_none_iff]
      exact fun l hl hcan => hnone l hl ((hfree l).mp hcan)
    rw [hpass hhalted hl, hno]
  · intro s1 s2
    have hsome : recoverPlace u = some l := by
      rw [hplace, hp, Option.filter_some, if_pos ((hfree l).mpr hf)]
    have hx' : waferAt ok i = some x := hx
    have hunknown : x.location = .unknown := by
      obtain ⟨-, y, hy, hloc⟩ := hl
      rwa [hx, Option.some.injEq, ← hy] at *
    refine exec_command h 11 rfl (by decide) (by decide) ((hpass hhalted hl).trans ?_)
    rw [hsome]
    have hmoved : moveWafer i l ok = s1 := by
      rw [moveWafer_of_wafer hx', if_neg]
      rw [hunknown]
      exact fun hstage => Location.noConfusion hstage.1
    have hforward : ((waferAt s1 i).any fun w => w.phase == .toPA || w.phase == .prealigned) = true ↔
        x.phase = .toPA ∨ x.phase = .prealigned := by
      rw [waferAt_updWafer_same, hx', Option.map_some, Option.any_some, Bool.or_eq_true, beq_iff_eq, beq_iff_eq]
    have hback : (settleHome i (if ((waferAt s1 i).any fun w => w.phase == .toPA || w.phase == .prealigned) = true
        then enterReviewDone i .cut s1 else s1)) = s2 := by
      rw [if_congr hforward rfl rfl]
    change recover i l ok = _
    rw [recover, hmoved]
    simp only [hback]
    rfl

/-! ## The hold set and GUARD_CLEAR -/

theorem HoldSet.isEmpty_iff (h : HoldSet) : h.isEmpty = true ↔ h = ⟨false, false, none, false⟩ := by
  obtain ⟨suspend, stage, align, guard⟩ := h
  cases suspend <;> cases stage <;> cases align <;> cases guard <;> simp [HoldSet.isEmpty]

/-- The dispatcher's conditions (R92). -/
theorem dispatchWafer_eq_some_iff (s : State) (i : Nat) : dispatchWafer s = some i ↔
    s.visit.current = none ∧ s.visit.hold = ⟨false, false, none, false⟩ ∧ s.cmd.resetting = false ∧
      stageWafer s = some i ∧ ∃ w, waferAt s i = some w ∧ w.phase = .reviewing ∧ w.aborting = false := by
  unfold dispatchWafer
  have hif : (s.visit.current.isNone && s.visit.hold.isEmpty && !s.cmd.resetting) = true ↔
      s.visit.current = none ∧ s.visit.hold = ⟨false, false, none, false⟩ ∧ s.cmd.resetting = false := by
    rw [Bool.and_eq_true, Bool.and_eq_true, Option.isNone_iff_eq_none, HoldSet.isEmpty_iff, Bool.not_eq_true', and_assoc]
  split
  next h =>
    obtain ⟨hcurrent, hhold, hreset⟩ := hif.mp h
    rw [Option.filter_eq_some_iff, Option.any_eq_true]
    simp only [Bool.and_eq_true, beq_iff_eq, Bool.not_eq_true']
    exact ⟨fun hmay => ⟨hcurrent, hhold, hreset, hmay⟩, fun hmay => hmay.2.2.2⟩
  next h =>
    refine ⟨fun hnone => (nomatch hnone), ?_⟩
    rintro ⟨hcurrent, hhold, hreset, -⟩
    exact absurd (hif.mpr ⟨hcurrent, hhold, hreset⟩) h

theorem dispatch_of_none {s : State} (h : dispatchWafer s = none) : dispatch s = s := by
  rw [dispatch, h]

theorem dispatch_of_some {s : State} {i : Nat} (h : dispatchWafer s = some i) :
    dispatch s = takeFrom i (queuedList s i) s := by
  rw [dispatch, h]

theorem dispatchWafer_eq_none_of {s : State} (h : ∀ i, dispatchWafer s ≠ some i) : dispatchWafer s = none :=
  Option.eq_none_iff_forall_ne_some.mpr h

/-- Settles O39. -/
theorem holdCommands : Obligations.HoldCommands := by
  refine ⟨fun w s h => ?_, fun s hhold => ?_⟩
  · intro shown hold cleared renewed
    refine ⟨?_, ?_, fun hnot => ?_, fun hhard hlow => ?_, fun hhard hhigh => ?_⟩
    · exact exec_command_of_handling h 7 rfl (by decide) (by decide) rfl rfl
    · exact exec_command h 8 rfl (by decide) (by decide) rfl
    · refine exec_command_of_handling h 10 rfl (by decide) (by decide)
        (?_ : cmdGuardClear (commandSeen 10 w s) = _) rfl
      have hstate : (commandSeen 10 w s).guard.state = s.guard.state := rfl
      unfold cmdGuardClear
      rw [hstate]
      cases hg : s.guard.state with
      | normal => rfl
      | softTripped => rfl
      | hardTripped => exact absurd hg hnot
    all_goals
      have hstate : (commandSeen 10 w s).guard.state = .hardTripped := hhard
      have hclear : cmdGuardClear (commandSeen 10 w s) = if s.guard.inRun < paramNat s 20
          then shown .stillOut (commandSeen 10 w s) else clearGuard (shown .accepted (commandSeen 10 w s)) := by
        unfold cmdGuardClear
        rw [hstate]
        rfl
    · exact exec_command_of_handling h 10 rfl (by decide) (by decide) (hclear.trans (if_pos hlow)) rfl
    · exact exec_command h 10 rfl (by decide) (by decide) (hclear.trans (if_neg (Nat.not_lt.mpr hhigh)))
  · exact dispatch_of_none (dispatchWafer_eq_none_of fun i hi => hhold ((dispatchWafer_eq_some_iff s i).mp hi).2.1)

end Sys2Proof.Machine
end

-- ==== Proofs: what the end of a wafer's review leaves, and closing tests (R10 to R17, R82, R83, R149) ====
section
namespace Sys2Proof.Machine

/-! ## Records under a change of the whole table -/

theorem waferAt_map {s t : State} {g : Option Wafer → Option Wafer} (hg : g none = none)
    (h : t.wafers = s.wafers.map g) (i : Nat) : waferAt t i = g (waferAt s i) := by
  simp only [waferAt, h, List.getD_eq_getElem?_getD, List.getElem?_map]
  cases s.wafers[i]? with
  | none => exact hg.symm
  | some o => rfl

/-- What the lot and report units leave of a wafer's record: its place, its lot, its outcome and its alignment; its
phase too, but for a wafer that the planner takes from its slot. -/
structure SameReview (y x : Wafer) : Prop where
  location : x.location = y.location
  run : x.run = y.run
  outcome : x.outcome = y.outcome
  align : x.align = y.align
  phase : x.phase = y.phase ∨ (y.phase = .waiting ∧ x.phase = .toPA)

theorem SameReview.refl (w : Wafer) : SameReview w w := ⟨rfl, rfl, rfl, rfl, .inl rfl⟩

theorem SameReview.trans {x y z : Wafer} (h : SameReview x y) (k : SameReview y z) : SameReview x z where
  location := k.location.trans h.location
  run := k.run.trans h.run
  outcome := k.outcome.trans h.outcome
  align := k.align.trans h.align
  phase := by
    rcases k.phase with hk | ⟨hk, hk'⟩ <;> rcases h.phase with hh | ⟨hh, hh'⟩
    · exact .inl (hk.trans hh)
    · exact .inr ⟨hh, hk.trans hh'⟩
    · exact .inr ⟨hh ▸ hk, hk'⟩
    · rw [hh'] at hk
      cases hk

/-- What the lot, revisit and report units leave when a wafer's review ends: the visit unit, the focus unit but for the
seed of a lot that ends, the prealignment and the removals that wait, and of the records what `SameReview` says. -/
structure WaferKeeps (s t : State) : Prop where
  visit : t.visit = s.visit
  focus : ∃ d, t.focus = { s.focus with seed := d }
  prealign : t.handling.prealign = s.handling.prealign
  removals : t.handling.removals = s.handling.removals
  wafers : ∀ i x, waferAt t i = some x → ∃ y, waferAt s i = some y ∧ SameReview y x

theorem WaferKeeps.refl (s : State) : WaferKeeps s s :=
  ⟨rfl, ⟨_, rfl⟩, rfl, rfl, fun _ x hx => ⟨x, hx, .refl x⟩⟩

theorem WaferKeeps.trans {s t u : State} (h : WaferKeeps s t) (k : WaferKeeps t u) : WaferKeeps s u where
  visit := k.visit.trans h.visit
  focus := by
    obtain ⟨d, hd⟩ := h.focus
    obtain ⟨d', hd'⟩ := k.focus
    exact ⟨d', by rw [hd', hd]⟩
  prealign := k.prealign.trans h.prealign
  removals := k.removals.trans h.removals
  wafers := fun i x hx => by
    obtain ⟨y, hy, hyx⟩ := k.wafers i x hx
    obtain ⟨z, hz, hzy⟩ := h.wafers i y hy
    exact ⟨z, hz, hzy.trans hyx⟩

/-- What the lot and report units leave: the revisit table besides. -/
structure ReviewKeeps (s t : State) : Prop extends WaferKeeps s t where
  table : t.table = s.table

theorem ReviewKeeps.refl (s : State) : ReviewKeeps s s := ⟨.refl s, rfl⟩

theorem ReviewKeeps.trans {s t u : State} (h : ReviewKeeps s t) (k : ReviewKeeps t u) : ReviewKeeps s u :=
  ⟨h.toWaferKeeps.trans k.toWaferKeeps, k.table.trans h.table⟩

/-- An operation on other fields than these. -/
theorem ReviewKeeps.of_eq {s t : State} (hvisit : t.visit = s.visit) (hfocus : t.focus = s.focus)
    (hprealign : t.handling.prealign = s.handling.prealign) (hremovals : t.handling.removals = s.handling.removals)
    (hwafers : t.wafers = s.wafers) (htable : t.table = s.table) : ReviewKeeps s t :=
  ⟨⟨hvisit, ⟨s.focus.seed, hfocus⟩, hprealign, hremovals,
    fun i x hx => ⟨x, (waferAt_congr hwafers i).symm.trans hx, .refl x⟩⟩, htable⟩

section
variable (s : State)

theorem postEvent_reviewKeeps (k : EventKind) (w : Option Nat) (a b : Word) : ReviewKeeps s (postEvent k w a b s) :=
  .of_eq (by simp) (by simp) (by simp) (by simp) (by simp) (by simp)

theorem ringTest_reviewKeeps : ReviewKeeps s (ringTest s) :=
  .of_eq (by simp) (by simp) (by simp) (by simp) (by simp) (by simp)

theorem joinReport_reviewKeeps (r : Report) : ReviewKeeps s (joinReport r s) :=
  .trans (t := { s with report := { s.report with queue := s.report.queue ++ [r] } })
    (.of_eq rfl rfl rfl rfl rfl rfl) (ringTest_reviewKeeps _)

theorem wantPlan_reviewKeeps : ReviewKeeps s (wantPlan s) := .of_eq rfl rfl rfl rfl rfl rfl

theorem updLot_reviewKeeps (run : Nat) (f : Lot → Lot) : ReviewKeeps s (updLot run f s) := .of_eq rfl rfl rfl rfl rfl rfl

theorem setLotState_reviewKeeps (run : Nat) (st : LotState) : ReviewKeeps s (setLotState run st s) :=
  .of_eq rfl rfl rfl rfl rfl rfl

theorem reloadIfDue_reviewKeeps : ReviewKeeps s (reloadIfDue s) := by
  unfold reloadIfDue
  split
  · exact .of_eq rfl rfl rfl rfl rfl rfl
  · exact .refl s

/-- The records of an ended lot are freed; no other record changes. -/
theorem endLot_reviewKeeps (l : Lot) : ReviewKeeps s (endLot l s) := by
  have hfreed : ReviewKeeps s { clearSeed l.run s with
      wafers := s.wafers.map fun o => o.filter fun w => w.run != l.run
      lots := leaveQueue l.run s.lots } := by
    refine ⟨⟨rfl, ⟨_, rfl⟩, rfl, rfl, fun i x hx => ⟨x, ?_, .refl x⟩⟩, rfl⟩
    rw [waferAt_map (s := s) (g := fun o => o.filter fun w => w.run != l.run) rfl rfl i] at hx
    exact (Option.filter_eq_some_iff.mp hx).1
  exact ((hfreed.trans (postEvent_reviewKeeps _ _ _ _ _)).trans (wantPlan_reviewKeeps _)).trans
    (reloadIfDue_reviewKeeps _)

theorem requestTest_reviewKeeps (run : Nat) : ReviewKeeps s (requestTest run s) := by
  unfold requestTest
  split
  · exact .refl s
  · split
    · split
      · split
        · exact .refl s
        · exact (updLot_reviewKeeps s _ _).trans (joinReport_reviewKeeps _ _)
      · split
        · exact endLot_reviewKeeps s _
        · exact .refl s
    · exact .refl s

theorem closingTest_reviewKeeps (run : Nat) : ReviewKeeps s (closingTest run s) := by
  unfold closingTest
  refine .trans ?_ (requestTest_reviewKeeps _ _)
  split
  · exact .refl s
  · split
    · exact setLotState_reviewKeeps s _ _
    · exact .refl s

theorem closingTestOf_reviewKeeps (i : Nat) : ReviewKeeps s (closingTestOf i s) := by
  unfold closingTestOf
  split
  · exact .refl s
  · exact closingTest_reviewKeeps s _

/-- A planner run sends an order, and may take a WAITING wafer from its slot. -/
theorem runPlanner_reviewKeeps : ReviewKeeps s (runPlanner s) := by
  unfold runPlanner
  split
  · split
    next p _ =>
      unfold issue feedPhase
      split
      · refine ⟨⟨rfl, ⟨_, rfl⟩, rfl, rfl, fun i x hx => ?_⟩, rfl⟩
        by_cases hi : i = p.wafer
        · subst hi
          rw [waferAt_updWafer_same, Option.map_eq_some_iff] at hx
          obtain ⟨y, hy, rfl⟩ := hx
          refine ⟨y, hy, ?_⟩
          by_cases hw : y.phase = .waiting
          · rw [if_pos hw]
            exact ⟨rfl, rfl, rfl, rfl, .inr ⟨hw, rfl⟩⟩
          · rw [if_neg hw]
            exact .refl y
        · rw [waferAt_updWafer_ne hi] at hx
          exact ⟨x, hx, .refl x⟩
      · exact .of_eq rfl rfl rfl rfl rfl rfl
    next => exact .of_eq rfl rfl rfl rfl rfl rfl
  · exact .refl s

theorem planBeforeHold_reviewKeeps : ReviewKeeps s (planBeforeHold s) := by
  unfold planBeforeHold
  dsimp only
  split
  · exact .trans (t := { s with choices := s.choices + 1 }) (.of_eq rfl rfl rfl rfl rfl rfl) (runPlanner_reviewKeeps _)
  · exact .of_eq rfl rfl rfl rfl rfl rfl

theorem holdByWatch_reviewKeeps (run n : Nat) : ReviewKeeps s (holdByWatch run n s) := by
  unfold holdByWatch
  split
  · exact .refl s
  · split
    · exact (setLotState_reviewKeeps s _ _).trans (postEvent_reviewKeeps _ _ _ _ _)
    · exact .refl s

theorem fireWatch_reviewKeeps (run i n c : Nat) (w : Watch) : ReviewKeeps s (fireWatch run i n c w s) := by
  unfold fireWatch
  dsimp only
  split
  · exact (postEvent_reviewKeeps s _ _ _ _).trans (holdByWatch_reviewKeeps _ _ _)
  · exact postEvent_reviewKeeps s _ _ _ _

theorem fireWatches_reviewKeeps (run i : Nat) (o : Option WaferOutcome) (counts : List Nat) (n : Nat)
    (ws : List Watch) (rs : List Nat) : ReviewKeeps s (fireWatches run i o counts n ws rs s) := by
  induction ws generalizing s n rs with
  | nil => unfold fireWatches; exact .refl s
  | cons w ws ih =>
    cases rs with
    | nil => unfold fireWatches; exact .refl s
    | cons r rs =>
      unfold fireWatches
      refine .trans ?_ (ih _ _ _)
      split
      · exact fireWatch_reviewKeeps s _ _ _ _ _
      · exact .refl s

theorem reportWafer_reviewKeeps (i : Nat) (w : Wafer) (a : WaferAcc) (l : Lot) :
    ReviewKeeps s (reportWafer i w a l s) := by
  unfold reportWafer
  dsimp only
  refine ((ReviewKeeps.trans ?_ (updLot_reviewKeeps _ _ _)).trans (joinReport_reviewKeeps _ _)).trans
    (fireWatches_reviewKeeps _ _ _ _ _ _ _ _)
  split
  · exact planBeforeHold_reviewKeeps s
  · exact .refl s

theorem buildWaferReport_reviewKeeps (i : Nat) : ReviewKeeps s (buildWaferReport i s) := by
  unfold buildWaferReport
  split
  · split
    · split
      · exact .refl s
      · exact reportWafer_reviewKeeps s _ _ _ _
    · exact .refl s
  · exact .refl s

end

/-! ## Entries that are retired -/

theorem entryAt_updEntry {s : State} {k : Nat} {e : Entry} (h : entryAt s k = some e) {f : Entry → Entry}
    (hf : ∀ x, (f x).index = x.index) : entryAt (updEntry k f s) k = some (f e) := by
  have hindex : e.index = k := beq_iff_eq.mp (List.find?_some (p := fun e : Entry => e.index == k) h)
  have hcomp : ((fun e : Entry => e.index == k) ∘ fun e => if e.index = k then f e else e) = fun e => e.index == k := by
    funext x
    simp only [Function.comp]
    split
    · rw [hf]
    · rfl
  change (s.table.map fun e => if e.index = k then f e else e).find? (fun e => e.index == k) = some (f e)
  rw [List.find?_map, hcomp]
  have hfind : s.table.find? (fun e => e.index == k) = some e := h
  rw [hfind, Option.map_some, if_pos hindex]

theorem handOverAt_of_entry {s : State} {k : Nat} {e : Entry} (h : entryAt s k = some e) :
    handOverAt k s = handOver e s := by
  rw [handOverAt, h]

theorem handOverAt_waferKeeps (s : State) (k : Nat) : WaferKeeps s (handOverAt k s) := by
  unfold handOverAt
  split
  · exact .refl s
  next e _ =>
    refine ⟨rfl, ⟨_, rfl⟩, rfl, rfl, fun i x hx => ?_⟩
    by_cases hi : i = e.wafer
    · subst hi
      rw [handOver, waferAt_updWafer_same, Option.map_eq_some_iff] at hx
      obtain ⟨y, hy, rfl⟩ := hx
      exact ⟨y, hy, rfl, rfl, rfl, rfl, .inl rfl⟩
    · rw [handOver, waferAt_updWafer_ne hi] at hx
      exact ⟨x, hx, .refl x⟩

theorem handOverAt_table (s : State) (k : Nat) : (handOverAt k s).table = s.table := by
  unfold handOverAt
  split <;> rfl

theorem retireEntry_waferKeeps (s : State) (st : EntryState) (e : Entry) : WaferKeeps s (retireEntry st e s) :=
  .trans (t := updEntry e.index (fun x => { x with state := st }) s)
    ⟨rfl, ⟨_, rfl⟩, rfl, rfl, fun _ x hx => ⟨x, hx, .refl x⟩⟩ (handOverAt_waferKeeps _ _)

theorem retireEntry_table (s : State) (st : EntryState) (e : Entry) : (retireEntry st e s).table =
    s.table.map fun x => if x.index = e.index then { x with state := st } else x :=
  handOverAt_table _ _

theorem foldl_retireEntry_waferKeeps (st : EntryState) (l : List Entry) (s : State) :
    WaferKeeps s (l.foldl (fun t e => retireEntry st e t) s) := by
  induction l generalizing s with
  | nil => exact .refl s
  | cons e l ih => exact (retireEntry_waferKeeps s st e).trans (ih _)

theorem foldl_retireEntry_table (st : EntryState) (l : List Entry) (s : State) :
    (l.foldl (fun t e => retireEntry st e t) s).table =
      s.table.map fun x => if x.index ∈ l.map (·.index) then { x with state := st } else x := by
  induction l generalizing s with
  | nil => simp
  | cons e l ih =>
    rw [List.foldl_cons, ih, retireEntry_table, List.map_map]
    refine List.map_congr_left fun x _ => ?_
    by_cases he : x.index = e.index <;> simp [he]

theorem skipQueued_waferKeeps (s : State) (i : Nat) : WaferKeeps s (skipQueued i s) :=
  foldl_retireEntry_waferKeeps .skipped _ s

theorem skipQueued_table (s : State) (i : Nat) : (skipQueued i s).table =
    s.table.map fun x => if x.index ∈ (queuedList s i).map (·.index) then { x with state := .skipped } else x :=
  foldl_retireEntry_table .skipped _ s

/-- With no double entry, the entries skipped are the queued ones of the wafer (R83). -/
theorem skipQueued_table_of_revisitTable {s : State} (h : RevisitTable s) (i : Nat) : (skipQueued i s).table =
    s.table.map fun e => if e.wafer = i ∧ e.state = .queued then { e with state := .skipped } else e := by
  rw [skipQueued_table]
  refine List.map_congr_left fun x hx => if_congr ⟨fun hmem => ?_, fun hq => ?_⟩ rfl rfl
  · obtain ⟨e, he, hindex⟩ := List.mem_map.mp hmem
    obtain ⟨hetable, hwafer, hqueued⟩ := (mem_queuedList s i e).mp he
    have hsame : e = x := List.inj_on_of_nodup_map (h.places.imp Nat.ne_of_lt) hetable hx hindex
    exact hsame ▸ ⟨hwafer, hqueued⟩
  · exact List.mem_map.mpr ⟨x, (mem_queuedList s i x).mpr ⟨hx, hq⟩, rfl⟩

/-- No entry of the wafer stays queued. -/
theorem not_queued_of_mem_skipQueued {s : State} {i : Nat} {e : Entry} (he : e ∈ (skipQueued i s).table)
    (hwafer : e.wafer = i) : e.state ≠ .queued := by
  rw [skipQueued_table, List.mem_map] at he
  obtain ⟨x, hx, rfl⟩ := he
  split at hwafer
  next hmem => rw [if_pos hmem]; exact EntryState.noConfusion
  next hmem =>
    rw [if_neg hmem]
    exact fun hq => hmem (List.mem_map.mpr ⟨x, (mem_queuedList s i x).mpr ⟨hx, hwafer, hq⟩, rfl⟩)

/-! ## Closing tests -/

theorem allOfLot_iff (s : State) (run : Nat) (p : Wafer → Bool) : allOfLot s run p = true ↔
    ∀ i w, i < 50 → waferAt s i = some w → w.run = run → p w = true := by
  have hmem : ∀ i, i ∈ wafersOfLot s run ↔ i < 50 ∧ ∃ w, waferAt s i = some w ∧ w.run = run := by
    intro i
    rw [wafersOfLot, List.mem_filter, waferIndices, List.mem_range, Option.any_eq_true]
    simp only [beq_iff_eq]
    rfl
  rw [allOfLot, List.all_eq_true]
  constructor
  · intro h i w hi hw hrun
    have hall := h i ((hmem i).mpr ⟨hi, w, hw, hrun⟩)
    rwa [hw, Option.all_some] at hall
  · intro h i hi
    obtain ⟨hlt, w, hw, hrun⟩ := (hmem i).mp hi
    rw [hw, Option.all_some]
    exact h i w hlt hw hrun

theorem Phase.not_isOpen_iff (p : Phase) : (!p.isOpen) = true ↔ p = .skipped ∨ p = .reviewDone ∨ p = .returned := by
  cases p <;> simp [Phase.isOpen]

theorem Phase.isHome_iff (p : Phase) : p.isHome = true ↔ p = .skipped ∨ p = .returned := by
  cases p <;> simp [Phase.isHome]

theorem readyForReport_iff (s : State) (run : Nat) : readyForReport s run = true ↔
    ∀ i w, i < 50 → waferAt s i = some w → w.run = run → (w.phase = .skipped ∨ w.phase = .returned) ∧ w.acc = none := by
  rw [readyForReport, allOfLot_iff]
  simp only [Bool.and_eq_true, Phase.isHome_iff, Option.isNone_iff_eq_none]

theorem closingTestOf_of_wafer {s : State} {i : Nat} {w : Wafer} (h : waferAt s i = some w) :
    closingTestOf i s = closingTest w.run s := by
  rw [closingTestOf, h]

/-! ## Home -/

theorem orderMoves_eq_false_iff (s : State) (i : Nat) :
    orderMoves s i = false ↔ ∀ o, s.handling.order = some o → o.wafer ≠ i := by
  unfold orderMoves
  cases s.handling.order <;> simp

/-- A REVIEW_DONE wafer in its slot with no order in flight is home (R17). -/
theorem settleHome_of_home {s : State} {i : Nat} {w : Wafer} (h : waferAt s i = some w) (hphase : w.phase = .reviewDone)
    (hslot : w.location = .slot) (horder : ∀ o, s.handling.order = some o → o.wafer ≠ i) :
    settleHome i s = closingTest w.run (postEvent .waferReturned (some i) (word i) 0
      (updWafer i (fun x => { x with phase := .returned }) s)) := by
  have hmoves : orderMoves s i = false := (orderMoves_eq_false_iff s i).mpr horder
  rw [settleHome, h]
  simp only [hphase, hslot, hmoves, Bool.not_false, decide_true, Bool.and_true, if_true]
  refine closingTestOf_of_wafer (w := { w with phase := .returned }) ?_
  rw [waferAt_congr (postEvent_wafers _ _ _ _ _), waferAt_updWafer_same, h, Option.map_some]

theorem settleHome_of_not_home {s : State} {i : Nat} {w : Wafer} (h : waferAt s i = some w)
    (hnot : ¬ (w.phase = .reviewDone ∧ w.location = .slot ∧ ∀ o, s.handling.order = some o → o.wafer ≠ i)) :
    settleHome i s = s := by
  rw [settleHome, h]
  refine if_neg fun hcond => hnot ?_
  rw [Bool.and_eq_true, Bool.and_eq_true, decide_eq_true_eq, decide_eq_true_eq, Bool.not_eq_true',
    orderMoves_eq_false_iff] at hcond
  exact ⟨hcond.1.1, hcond.1.2, hcond.2⟩

/-- Going home changes nothing, or makes the wafer RETURNED and tests its lot. -/
theorem settleHome_cases (s : State) (i : Nat) : settleHome i s = s ∨
    ∃ w, waferAt s i = some w ∧ w.phase = .reviewDone ∧
      ReviewKeeps (updWafer i (fun x => { x with phase := .returned }) s) (settleHome i s) := by
  cases h : waferAt s i with
  | none => left; rw [settleHome, h]
  | some w =>
    by_cases hhome : w.phase = .reviewDone ∧ w.location = .slot ∧ ∀ o, s.handling.order = some o → o.wafer ≠ i
    · obtain ⟨hphase, hslot, horder⟩ := hhome
      refine .inr ⟨w, rfl, hphase, ?_⟩
      rw [settleHome_of_home h hphase hslot horder]
      exact (postEvent_reviewKeeps _ _ _ _ _).trans (closingTest_reviewKeeps _ _)
    · exact .inl (settleHome_of_not_home h hhome)

end Sys2Proof.Machine
end

-- ==== Proofs: the end of a wafer's review, and LOT_ABORT (R10 to R17) ====
section
namespace Sys2Proof.Machine

/-! ## The end of a wafer's review -/

/-- The record, the prealignment and the ALIGN hold of a wafer that enters REVIEW_DONE (R15, R32, R60). -/
def reviewEnded (i : Nat) (o : WaferOutcome) (s : State) : State :=
  updWafer i (fun x => { x with
      phase := .reviewDone
      outcome := some (x.outcome.getD o)
      align := { x.align with state := .none, primary := none, secondary := none, checks := [] } })
    { s with
      handling := { s.handling with prealign := s.handling.prealign.filter fun p => p.1 != i }
      visit := { s.visit with hold := { s.visit.hold with align := s.visit.hold.align.filter fun j => j != i } } }

theorem enterReviewDone_of_wafer {s : State} {i : Nat} {w : Wafer} (h : waferAt s i = some w) (o : WaferOutcome) :
    enterReviewDone i o s = settleHome i (afterReview i (closingTest w.run (reviewEnded i o s))) := by
  have hended : releaseAlign i (dropAttempt i (dropPrealign i (updWafer i (endPhase .reviewDone o) s))) =
      reviewEnded i o s :=
    updWafer_updWafer i _ _ { s with
      handling := { s.handling with prealign := s.handling.prealign.filter fun p => p.1 != i }
      visit := { s.visit with hold := { s.visit.hold with align := s.visit.hold.align.filter fun j => j != i } } }
  have hrecord : waferAt (reviewEnded i o s) i = some { w with
      phase := .reviewDone
      outcome := some (w.outcome.getD o)
      align := { w.align with state := .none, primary := none, secondary := none, checks := [] } } := by
    rw [reviewEnded, waferAt_updWafer_same]
    exact congrArg (Option.map _) h
  rw [enterReviewDone, hended, closingTestOf_of_wafer hrecord]

theorem afterReview_waferKeeps (s : State) (i : Nat) : WaferKeeps s (afterReview i s) :=
  ((skipQueued_waferKeeps s i).trans (buildWaferReport_reviewKeeps _ i).toWaferKeeps).trans
    (wantPlan_reviewKeeps _).toWaferKeeps

/-- What follows the end of a review leaves no entry of the wafer queued (R83). -/
theorem not_queued_of_mem_afterReview {s : State} {i : Nat} {e : Entry} (he : e ∈ (afterReview i s).table)
    (hwafer : e.wafer = i) : e.state ≠ .queued := by
  have htable : (afterReview i s).table = (skipQueued i s).table := (buildWaferReport_reviewKeeps _ i).table
  exact not_queued_of_mem_skipQueued (htable ▸ he) hwafer

/-- Going home leaves the visit unit, the focus unit but for a seed, the prealignment and the removals. -/
theorem settleHome_units (s : State) (i : Nat) : (settleHome i s).visit = s.visit ∧
    (∃ d, (settleHome i s).focus = { s.focus with seed := d }) ∧
    (settleHome i s).handling.prealign = s.handling.prealign ∧
    (settleHome i s).handling.removals = s.handling.removals := by
  rcases settleHome_cases s i with h | ⟨w, -, -, h⟩
  · rw [h]
    exact ⟨rfl, ⟨_, rfl⟩, rfl, rfl⟩
  · exact ⟨h.visit, h.focus, h.prealign, h.removals⟩

/-- A record after going home: as before, but for the phase. -/
theorem settleHome_wafer {s : State} {i j : Nat} {x : Wafer} (hx : waferAt (settleHome i s) j = some x) :
    ∃ y, waferAt s j = some y ∧ x.location = y.location ∧ x.run = y.run ∧ x.outcome = y.outcome ∧
      x.align = y.align ∧ (y.phase = .reviewDone → x.phase = .reviewDone ∨ x.phase = .returned) := by
  rcases settleHome_cases s i with h | ⟨w, hw, hphase, h⟩
  · rw [h] at hx
    exact ⟨x, hx, rfl, rfl, rfl, rfl, .inl⟩
  · obtain ⟨y, hy, hyx⟩ := h.wafers j x hx
    by_cases hj : j = i
    · subst hj
      rw [waferAt_updWafer_same, hw, Option.map_some, Option.some.injEq] at hy
      subst hy
      refine ⟨w, hw, hyx.location, hyx.run, hyx.outcome, hyx.align, fun _ => .inr ?_⟩
      exact hyx.phase.resolve_right fun hp => Phase.noConfusion hp.1
    · rw [waferAt_updWafer_ne hj] at hy
      refine ⟨y, hy, hyx.location, hyx.run, hyx.outcome, hyx.align, fun hdone => .inl ?_⟩
      exact (hyx.phase.resolve_right fun hp => Phase.noConfusion (hdone.symm.trans hp.1)).trans hdone

/-- What a review that ends leaves of its wafer's record. -/
theorem enterReviewDone_wafer {s : State} {i : Nat} {w : Wafer} (h : waferAt s i = some w) (o : WaferOutcome) {x : Wafer}
    (hx : waferAt (enterReviewDone i o s) i = some x) : (x.phase = .reviewDone ∨ x.phase = .returned) ∧
      x.outcome = some (w.outcome.getD o) ∧ x.location = w.location ∧ x.align.state = .none ∧
      x.align.primary = none ∧ x.align.secondary = none ∧ x.align.checks = [] := by
  rw [enterReviewDone_of_wafer h] at hx
  obtain ⟨y, hy, hlocation, -, houtcome, halign, hphase⟩ := settleHome_wafer hx
  obtain ⟨z, hz, hzy⟩ := ((closingTest_reviewKeeps _ _).toWaferKeeps.trans (afterReview_waferKeeps _ _)).wafers i y hy
  rw [reviewEnded, waferAt_updWafer_same, Option.map_eq_some_iff] at hz
  obtain ⟨w', hw', rfl⟩ := hz
  obtain rfl : w' = w := Option.some.inj (hw'.symm.trans h)
  have hdone : y.phase = .reviewDone := hzy.phase.resolve_right fun hp => Phase.noConfusion hp.1
  rw [halign, hzy.align]
  exact ⟨hphase hdone, houtcome.trans hzy.outcome, hlocation.trans hzy.location, rfl, rfl, rfl, rfl⟩

/-- What a review that ends leaves of the units. -/
theorem enterReviewDone_units {s : State} {i : Nat} {w : Wafer} (h : waferAt s i = some w) (o : WaferOutcome) :
    (enterReviewDone i o s).visit = (reviewEnded i o s).visit ∧
    (∃ d, (enterReviewDone i o s).focus = { s.focus with seed := d }) ∧
    (enterReviewDone i o s).handling.prealign = (reviewEnded i o s).handling.prealign := by
  have hkeeps := (closingTest_reviewKeeps (reviewEnded i o s) w.run).toWaferKeeps.trans (afterReview_waferKeeps _ i)
  obtain ⟨hvisit, ⟨d, hfocus⟩, hprealign, -⟩ :=
    settleHome_units (afterReview i (closingTest w.run (reviewEnded i o s))) i
  obtain ⟨d', hfocus'⟩ := hkeeps.focus
  rw [enterReviewDone_of_wafer h]
  exact ⟨hvisit.trans hkeeps.visit, ⟨d, by rw [hfocus, hfocus']; rfl⟩, hprealign.trans hkeeps.prealign⟩

/-- Settles O17. -/
theorem reviewEnds : Obligations.ReviewEnds := by
  refine ⟨?ends, ?home, ?retired, ?skipped, ?closing⟩
  case ends =>
    intro i o s w hw t
    have hkeeps : Keeps s t := enterReviewDone_keeps s i o
    obtain ⟨hvisit, ⟨d, hfocus⟩, hprealign⟩ := enterReviewDone_units hw o
    refine ⟨enterReviewDone_of_wafer hw o, hkeeps.mem, congrArg (·.current) hvisit, congrArg (·.output) hfocus,
      congrArg (·.map) hfocus, hkeeps.guard, fun x hx => enterReviewDone_wafer hw o hx, fun p hp => ?_, fun hhold => ?_⟩
    · rw [hprealign] at hp
      exact bne_iff_ne.mp (Option.filter_eq_some_iff.mp hp).2
    · have hhold' : s.visit.hold.align.filter (fun j => j != i) = some i := by
        rw [hvisit] at hhold
        exact hhold
      exact bne_iff_ne.mp (Option.filter_eq_some_iff.mp hhold').2 rfl
  case home =>
    exact fun i s w hw => ⟨fun hhome => settleHome_of_home hw hhome.1 hhome.2.1 hhome.2.2, settleHome_of_not_home hw⟩
  case retired =>
    intro st e f s hf
    exact handOverAt_of_entry (entryAt_updEntry hf (f := fun x => { x with state := st }) fun _ => rfl)
  case skipped => exact fun i s => ⟨rfl, fun h => skipQueued_table_of_revisitTable h i⟩
  case closing =>
    intro run l s hl each closed asks
    have hclosed : allOfLot s run (fun w => !w.phase.isOpen) = true ↔ closed := by
      rw [allOfLot_iff]
      simp only [Phase.not_isOpen_iff]
      rfl
    have hasks : (l.state = .closing && readyForReport s run && !l.reportRequested) = true ↔ asks := by
      rw [Bool.and_eq_true, Bool.and_eq_true, decide_eq_true_eq, readyForReport_iff, Bool.not_eq_true', and_assoc]
      exact and_congr_right fun _ => and_comm
    have hclosing : closingTest run s = requestTest run
        (if l.state ≠ .closing && allOfLot s run (fun w => !w.phase.isOpen) then setLotState run .closing s else s) := by
      rw [closingTest, hl]
    refine ⟨fun hopen hall => ?_, fun hnot => ?_, fun hnot => ?_, fun a hasked ha hreset => ?_,
      fun a hasked ha hreset => ?_, fun hasked hnone hzero => ?_, fun hasked hnone hlatched => ?_⟩
    · rw [hclosing, if_pos]
      · rfl
      · rw [Bool.and_eq_true, decide_eq_true_eq]
        exact ⟨hopen, hclosed.mpr hall⟩
    · rw [hclosing, if_neg]
      rw [Bool.and_eq_true, decide_eq_true_eq, hclosed]
      exact fun hboth => hnot.elim hboth.1 fun hnc => hnc hboth.2
    · rw [requestTest, hl]
      exact if_neg fun hcond => hnot (hasks.mp hcond)
    all_goals
      rw [requestTest, hl]
      refine (if_pos (hasks.mpr hasked)).trans ?_
    · rw [ha]
      exact if_pos hreset
    · rw [ha]
      exact if_neg (Bool.eq_false_iff.mp hreset)
    · rw [hnone]
      exact if_pos (Option.isNone_iff_eq_none.mpr hzero)
    · rw [hnone]
      exact if_neg fun hz => hlatched (Option.isNone_iff_eq_none.mp hz)

/-! ## A lot is aborted -/

theorem cutInSlot_of_wafer {s : State} {i : Nat} {w : Wafer} (h : waferAt s i = some w) : cutInSlot i s =
    afterReview i (closingTest w.run (updWafer i (endPhase .returned .cut) s)) := by
  have hrecord : waferAt (updWafer i (endPhase .returned .cut) s) i = some (endPhase .returned .cut w) := by
    rw [waferAt_updWafer_same, h, Option.map_some]
  rw [cutInSlot, closingTestOf_of_wafer hrecord]
  rfl

/-- A record after a wafer is cut in its slot. -/
theorem cutInSlot_wafer {s : State} {i j : Nat} {x : Wafer} (hx : waferAt (cutInSlot i s) j = some x) :
    ∃ y, waferAt (updWafer i (endPhase .returned .cut) s) j = some y ∧ SameReview y x :=
  ((closingTestOf_reviewKeeps _ _).toWaferKeeps.trans (afterReview_waferKeeps _ _)).wafers j x hx

/-- Settles O16. -/
theorem lotAbort : Obligations.LotAbort := by
  refine ⟨?command, ?byPhase, ?inSlot⟩
  case command =>
    intro w s h u ok aborted first both
    have hfirst : abortActive ok = first := by
      unfold abortActive
      cases hl : ok.lots.active with
      | none => simp only [first, show s.lots.active = none from hl]
      | some l => simp only [first, show s.lots.active = some l from hl]; rfl
    have hboth : abortPending first = both := by
      unfold abortPending
      cases hl : first.lots.second with
      | none => simp only [both, hl]
      | some l => simp only [both, hl]; rfl
    have hpass : s.lots ≠ ⟨none, none⟩ → cmdLotAbort u = if arg u 0 = 1 then abortPending first else first := by
      intro hsome
      rw [← hfirst]
      exact if_neg fun he => hsome ((lotList_isEmpty_iff u).mp he)
    refine ⟨fun hempty => ?_, fun hsome hA0 => ?_, fun hsome hA0 => ?_⟩
    · exact exec_command_of_handling h 4 rfl (by decide) (by decide) (if_pos ((lotList_isEmpty_iff u).mpr hempty)) rfl
    · exact exec_command h 4 rfl (by decide) (by decide) ((hpass hsome).trans (if_neg hA0))
    · exact exec_command h 4 rfl (by decide) (by decide) ((hpass hsome).trans ((if_pos hA0).trans hboth))
  case byPhase =>
    intro i s w hw
    refine ⟨fun hp => by simp only [cutWafer, hw, hp], ?_, ?_, ?_⟩
    · rintro (hp | hp | hp) <;> simp only [cutWafer, hw, hp]
    · rintro (hp | hp) <;> simp only [cutWafer, hw, hp]
    · rintro (hp | hp | hp) <;> simp only [cutWafer, hw, hp]
  case inSlot =>
    intro i s w hw t
    refine ⟨cutInSlot_of_wafer hw, fun x hx => ?_, fun j x hx => ?_, fun e he hwafer => ?_⟩
    · obtain ⟨y, hy, hyx⟩ := cutInSlot_wafer hx
      rw [waferAt_updWafer_same, hw, Option.map_some, Option.some.injEq] at hy
      subst hy
      exact ⟨hyx.phase.resolve_right fun hp => Phase.noConfusion hp.1, hyx.outcome⟩
    · obtain ⟨y, hy, hyx⟩ := cutInSlot_wafer hx
      by_cases hj : j = i
      · subst hj
        rw [waferAt_updWafer_same, hw, Option.map_some, Option.some.injEq] at hy
        subst hy
        exact ⟨w, hw, hyx.location, hyx.run⟩
      · rw [waferAt_updWafer_ne hj] at hy
        exact ⟨y, hy, hyx.location, hyx.run⟩
    · exact not_queued_of_mem_afterReview he hwafer

end Sys2Proof.Machine
end

-- ==== Proofs: events, watches and holds, wafer reports, verdicts, drift and the take (R9, R58 to R65, R80, R149, R197) ====
section
namespace Sys2Proof.Machine

/-! ## Events -/

theorem EventKind.code_lt (k : EventKind) : k.code < 256 := by cases k <;> decide

theorem Category.place_lt (c : Category) : c.place < 5 := by cases c <;> decide

theorem eventBlocked_eq_false_iff (s : State) (z : Zone) : eventBlocked s z = false ↔
    (s.cmd.evNext + 1) % eventPlaces z ≠ s.cmd.evConsumer ∧ s.path.jobs.length < 16 := by
  rw [eventBlocked, Bool.or_eq_false_iff, decide_eq_false_iff_not, decide_eq_false_iff_not]
  exact and_congr_right fun _ => Nat.not_le

theorem postEvent_of_zone {s : State} {z : Zone} (h : zoneOf s .events = some z) (k : EventKind) (wafer : Option Nat)
    (a b : Word) : postEvent k wafer a b s = writeEvent z k wafer a b (setCause k.category s) := by
  have hz : zoneOf (setCause k.category s) .events = some z := h
  unfold postEvent
  dsimp only
  rw [hz]

theorem put_of_lt {v width : Nat} (h : v < 2 ^ width) (lo : Nat) : put v lo width = 2 ^ lo * v := by
  rw [put, Nat.mod_eq_of_lt h, Nat.mul_comm]

/-- Settles O8. -/
theorem Settled.postEvent : Obligations.PostEvent := by
  refine ⟨fun k wafer a b s => ?_, fun k wafer lost ms a b hwafer => ?_, rfl⟩
  · intro c
    cases hz : zoneOf s .events with
    | none =>
      have hz' : zoneOf (setCause k.category s) .events = none := hz
      change Machine.postEvent k wafer a b s = _
      unfold Machine.postEvent
      dsimp only
      rw [hz']
      rfl
    | some z =>
      dsimp only
      have hfree := eventBlocked_eq_false_iff (setCause k.category s) z
      split
      next h =>
        rw [postEvent_of_zone hz, writeEvent, hfree.mpr h]
        rfl
      next h =>
        rw [postEvent_of_zone hz, writeEvent, if_pos]
        · rfl
        · exact Bool.eq_true_of_not_eq_false fun hf => h (hfree.mp hf)
  · have hindex : wafer.getD 255 < 256 := by
      cases wafer with
      | none => decide
      | some i => exact hwafer i rfl
    have hplace := k.category.place_lt
    have hlost : flagBit lost 31 = if lost then 2147483648 else 0 := rfl
    rw [eventWords, put_of_lt (width := 8) k.code_lt, put_of_lt (width := 3) (by omega), put_of_lt (width := 8) hindex,
      hlost]
    norm_num

/-! ## Watches -/

theorem getD_addTotals : ∀ (ts cs : List Nat), ts.length = cs.length → ∀ c, c < ts.length →
    (addTotals ts cs).getD c 0 = min 65535 (ts.getD c 0 + cs.getD c 0)
  | t :: ts, c :: cs, hlen, 0, _ => rfl
  | t :: ts, c :: cs, hlen, k + 1, hk => by
    have hrest := getD_addTotals ts cs (Nat.succ.inj hlen) k (Nat.lt_of_succ_lt_succ hk)
    simpa only [addTotals, List.getD_cons_succ] using hrest

theorem cutsTotals_iff : ∀ ts cs : List Nat, ts.length = cs.length →
    (cutsTotals ts cs = true ↔ ∃ c, c < ts.length ∧ 65535 < ts.getD c 0 + cs.getD c 0)
  | [], [], _ => by simp [cutsTotals]
  | t :: ts, c :: cs, hlen => by
    rw [cutsTotals, Bool.or_eq_true, decide_eq_true_eq, cutsTotals_iff ts cs (Nat.succ.inj hlen)]
    constructor
    · rintro (hcut | ⟨k, hk, hcut⟩)
      · exact ⟨0, Nat.succ_pos _, hcut⟩
      · exact ⟨k + 1, Nat.succ_lt_succ hk, hcut⟩
    · rintro ⟨k, hk, hcut⟩
      cases k with
      | zero => exact .inl hcut
      | succ k => exact .inr ⟨k, Nat.lt_of_succ_lt_succ hk, hcut⟩

theorem holdFires_iff (o : Option WaferOutcome) (counts : List Nat) (ws : List Watch) (rs : List Nat) :
    holdFires o counts ws rs = true ↔ ∃ n x, ws[n]? = some x ∧ x.hold = true ∧ n < rs.length ∧
      watchFires o counts x (rs.getD n 0) = true := by
  rw [holdFires, List.any_eq_true]
  simp only [Bool.and_eq_true]
  constructor
  · rintro ⟨p, hp, hhold, hfires⟩
    obtain ⟨n, hn⟩ := List.mem_iff_getElem?.mp hp
    rw [List.getElem?_zip_eq_some] at hn
    obtain ⟨hw, hr⟩ := hn
    refine ⟨n, p.1, hw, hhold, (List.getElem?_eq_some_iff.mp hr).1, ?_⟩
    rwa [List.getD_eq_getElem?_getD, hr]
  · rintro ⟨n, x, hx, hhold, hn, hfires⟩
    refine ⟨(x, rs.getD n 0), List.mem_iff_getElem?.mpr ⟨n, ?_⟩, hhold, hfires⟩
    rw [List.getElem?_zip_eq_some, List.getD_eq_getElem _ _ hn]
    exact ⟨hx, List.getElem?_eq_getElem hn⟩

theorem mayBeHeld_iff (l : Lot) : mayBeHeld l = true ↔ l.state = .active ∨ l.state = .pending := by
  rw [mayBeHeld, Bool.or_eq_true, beq_iff_eq, beq_iff_eq]

theorem mayPlan_iff (s : State) : mayPlan s = true ↔
    (s.handling.state = .idle ∨ s.handling.state = .portWait) ∧ s.cmd.resetting = false := by
  rw [mayPlan, Bool.and_eq_true, Bool.or_eq_true, beq_iff_eq, beq_iff_eq, Bool.not_eq_true']

/-! ## A wafer report is built -/

/-- A change of a lot that leaves its run. -/
theorem lotOfRun_updLot {s : State} {run : Nat} {l : Lot} (h : lotOfRun s run = some l) {f : Lot → Lot}
    (hf : ∀ x, (f x).run = x.run) : lotOfRun (updLot run f s) run = some (f l) := by
  have hrun : l.run = run := beq_iff_eq.mp (List.find?_some (p := fun l : Lot => l.run == run) h)
  have hlist : lotList (updLot run f s) = (lotList s).map fun l => if l.run = run then f l else l := by
    simp only [lotList, updLot, List.map_append, Option.toList_map]
  have hcomp : ((fun l : Lot => l.run == run) ∘ fun l => if l.run = run then f l else l) = fun l => l.run == run := by
    funext x
    simp only [Function.comp]
    split
    · rw [hf]
    · rfl
  have hfind : (lotList s).find? (fun l => l.run == run) = some l := h
  rw [lotOfRun, hlist, List.find?_map, hcomp, hfind, Option.map_some, if_pos hrun]

theorem runPlanner_lots (s : State) : (runPlanner s).lots = s.lots := by
  unfold runPlanner
  split
  · split
    · unfold issue feedPhase
      split <;> rfl
    · rfl
  · rfl

theorem lotOfRun_congr {s t : State} (h : t.lots = s.lots) (run : Nat) : lotOfRun t run = lotOfRun s run := by
  rw [lotOfRun, lotOfRun, lotList, lotList, h]

/-- The lot's counting of a report, the report itself, and the watches it fires, in a state where they come next. -/
theorem reportWafer_eq (i : Nat) {w : Wafer} (a : WaferAcc) {l : Lot} {la : LotAcc} {st : Settings} {s : State}
    (hl : lotOfRun s w.run = some l) (hacc : l.acc = some la) (hst : l.settings = some st) :
    let built := fun t : State =>
      let counted := updLot w.run (fun l =>
        { l with acc := l.acc.map (countReport w.outcome a.classCounts st.watches) }) t
      fireWatches w.run i w.outcome a.classCounts 1 st.watches la.runs
        (joinReport ⟨.wafer i, waferReportWords counted i w a
          (countReport w.outcome a.classCounts st.watches la).runs⟩ counted)
    reportWafer i w a l s = built
      (if holdFires w.outcome a.classCounts st.watches la.runs && mayBeHeld l && mayPlan s then planBeforeHold s else s) := by
  intro built
  have hwatches : ((l.settings.map (·.watches)).getD []) = st.watches := by rw [hst]; rfl
  have hbefore : runsOf s w.run = la.runs := by
    rw [runsOf, hl, Option.bind_some, hacc]
    rfl
  have hafter : ∀ t, t.lots = s.lots →
      runsOf (countForLot w.run w.outcome a.classCounts st.watches t) w.run =
        (countReport w.outcome a.classCounts st.watches la).runs := by
    intro t ht
    have hlot := lotOfRun_updLot ((lotOfRun_congr ht w.run).trans hl)
      (f := fun l => { l with acc := l.acc.map (countReport w.outcome a.classCounts st.watches) }) fun _ => rfl
    rw [runsOf, countForLot, hlot, Option.bind_some]
    simp only [hacc]
    rfl
  have hlots : (planBeforeHold s).lots = s.lots := by
    unfold planBeforeHold
    dsimp only
    split
    · exact runPlanner_lots _
    · rfl
  rw [reportWafer, hwatches, hbefore]
  split
  · simp only [hafter _ hlots]
    rfl
  · simp only [hafter s rfl]
    rfl

/-- A wafer report with accumulators is built outside RESETTING (R149). -/
theorem buildWaferReport_of_lot {i : Nat} {s : State} {w : Wafer} {a : WaferAcc} {l : Lot} (hw : waferAt s i = some w)
    (ha : w.acc = some a) (hl : lotOfRun s w.run = some l) (hreset : s.cmd.resetting = false) :
    buildWaferReport i s = reportWafer i w a l s := by
  have hlot : lotOfWafer s i = some l := by rw [lotOfWafer, hw, Option.bind_some, hl]
  simp only [buildWaferReport, hw, hlot, ha, hreset, Bool.false_eq_true, if_false]

theorem buildWaferReport_none {i : Nat} {s : State} {w : Wafer} (hw : waferAt s i = some w)
    (h : w.acc = none ∨ s.cmd.resetting = true) : buildWaferReport i s = s := by
  cases hl : lotOfWafer s i with
  | none => simp only [buildWaferReport, hw, hl]
  | some l =>
    simp only [buildWaferReport, hw, hl]
    rcases h with hacc | hreset
    · rw [hacc]
    · cases w.acc with
      | none => rfl
      | some a => exact if_pos hreset

theorem planBeforeHold_cases (s : State) : planBeforeHold s = { s with choices := s.choices + 1 } ∨
    planBeforeHold s = runPlanner { s with choices := s.choices + 1 } := by
  unfold planBeforeHold
  dsimp only
  split
  · exact .inr rfl
  · exact .inl rfl

/-! ## LOT_HOLD -/

/-- Settles O14. -/
theorem lotHold : Obligations.LotHold := by
  unfold Obligations.LotHold
  intro hold mayHold
  refine ⟨?command, ?watchHold, ?run, ?counted, ?fires, ?built⟩
  case command =>
    intro w s h u ok
    have hpass : s.lots ≠ ⟨none, none⟩ → cmdLotHold u = holdActive ok := fun hsome =>
      if_neg fun he => hsome ((lotList_isEmpty_iff u).mp he)
    refine ⟨fun hempty => ?_, fun hsome hnone => ?_, fun l hl hactive => ?_⟩
    · exact exec_command_of_handling h 2 rfl (by decide) (by decide) (if_pos ((lotList_isEmpty_iff u).mpr hempty)) rfl
    · refine exec_command_of_handling h 2 rfl (by decide) (by decide) ((hpass hsome).trans ?_) rfl
      unfold holdActive
      cases hl : ok.lots.active with
      | none => rfl
      | some l => exact if_neg (hnone l hl)
    · have hsome : s.lots ≠ ⟨none, none⟩ := fun he => by rw [he] at hl; cases hl
      refine exec_command h 2 rfl (by decide) (by decide) ((hpass hsome).trans ?_)
      have hl' : ok.lots.active = some l := hl
      rw [holdActive, hl']
      exact if_pos hactive
  case watchHold =>
    refine fun run n s => ⟨fun l hl hmay => ?_, fun hnot => ?_⟩
    · rw [holdByWatch, hl]
      exact if_pos ((mayBeHeld_iff l).mpr hmay)
    · unfold holdByWatch
      cases hl : lotOfRun s run with
      | none => rfl
      | some l => exact if_neg fun hmay => hnot l hl ((mayBeHeld_iff l).mp hmay)
  case run =>
    intro o counts w run counted n
    refine ⟨fun hc hle => ?_, fun hc hlt => ?_, fun hnot => ?_, ?_⟩
    · obtain ⟨hen, ho⟩ := hc
      unfold watchRun
      rw [if_pos hen]
      rcases ho with rfl | rfl <;> exact if_pos hle
    · obtain ⟨hen, ho⟩ := hc
      unfold watchRun
      rw [if_pos hen]
      rcases ho with rfl | rfl <;> exact if_neg (Nat.not_le.mpr hlt)
    · unfold watchRun
      split
      next hen =>
        split
        · exact absurd ⟨hen, .inl rfl⟩ hnot
        · exact absurd ⟨hen, .inr rfl⟩ hnot
        · rfl
      next => rfl
    · rw [watchFires, Bool.and_eq_true, decide_eq_true_eq, beq_iff_eq]
  case counted =>
    intro o counts ws a hcounts htotals hws hruns hflags b
    refine ⟨fun c hc => ?_, ?_, fun n w hw => ?_⟩
    · exact getD_addTotals _ _ (by omega) c (by omega)
    · change (a.saturated || cutsTotals a.totals counts) = true ↔ _
      rw [Bool.or_eq_true, cutsTotals_iff _ _ (by omega), htotals]
    · have hn : n < 4 := hws ▸ (List.getElem?_eq_some_iff.mp hw).1
      have hget : ws[n]'(by omega) = w := (List.getElem?_eq_some_iff.mp hw).2
      have hr : a.runs.getD n 0 = a.runs[n]'(by omega) := List.getD_eq_getElem _ _ _
      have hf : a.flags.getD n false = a.flags[n]'(by omega) := List.getD_eq_getElem _ _ _
      constructor
      · change (List.zipWith (watchRun o counts) ws a.runs).getD n 0 = _
        rw [List.getD_eq_getElem _ _ (by rw [List.length_zipWith]; omega), List.getElem_zipWith, hget, hr]
      · change (List.zipWith (fun f b => f || b) (List.zipWith (watchFires o counts) ws a.runs) a.flags).getD n false =
          true ↔ _
        rw [List.getD_eq_getElem _ _ (by rw [List.length_zipWith, List.length_zipWith]; omega), List.getElem_zipWith,
          List.getElem_zipWith, hget, hr, hf, Bool.or_eq_true, or_comm]
  case fires =>
    refine fun run i o counts n w ws r rs s => ⟨rfl, ?_, ?_⟩
    · unfold fireWatches
      rfl
    · cases ws <;> (unfold fireWatches; rfl)
  case built =>
    refine fun i s w hw => ⟨buildWaferReport_none hw, fun a l la st ha hreset hl hacc hst => ?_⟩
    intro runs built races drawn
    have hraces : (holdFires w.outcome a.classCounts st.watches la.runs && mayBeHeld l && mayPlan s) = true ↔ races := by
      rw [Bool.and_eq_true, Bool.and_eq_true, holdFires_iff, mayBeHeld_iff, mayPlan_iff, and_assoc]
      exact and_congr_right fun _ => and_congr_right fun _ => and_iff_left hreset
    have hbuilt : buildWaferReport i s = built
        (if holdFires w.outcome a.classCounts st.watches la.runs && mayBeHeld l && mayPlan s
          then planBeforeHold s else s) :=
      (buildWaferReport_of_lot hw ha hl hreset).trans (reportWafer_eq i a hl hacc hst)
    refine ⟨fun hnot => ?_, fun hr => ?_⟩
    · rw [hbuilt, if_neg fun hcond => hnot (hraces.mp hcond)]
    · rw [hbuilt, if_pos (hraces.mpr hr)]
      exact (planBeforeHold_cases s).imp (congrArg built) (congrArg built)

end Sys2Proof.Machine
end

-- ==== Proofs: verdicts, drift and the take (R58 to R65, R80, R81, R85, R92) ====
section
namespace Sys2Proof.Machine

/-! ## Verdicts -/

/-- Settles O32. -/
theorem verdictTakesEffect : Obligations.VerdictTakesEffect := by
  refine ⟨fun i s w v t hw => ?_, rfl⟩
  intro noMarks freed refused
  have hrefuse : w.align.used ≤ 2 → judge w.align (param s 3) = (v, none) → giveVerdict i s =
      if w.align.used < 2 then refused
      else if w.phase = .aligning ∨ w.phase = .reviewing then
        enterReviewDone i .alignFailed (if w.align.kind = .realign then freed refused else refused)
      else if w.align.kind = .realign then freed refused else refused := by
    intro hused hjudge
    have hmin : min 3 (w.align.used + 1) = w.align.used + 1 := by omega
    have hiff : w.align.used + 1 < 3 ↔ w.align.used < 2 := by omega
    simp only [giveVerdict, hw, hjudge, refuseAttempt, hmin, hiff]
    rfl
  refine ⟨fun hjudge => ?_, fun hjudge hused => ?_, fun hjudge hused hphase => ?_⟩
  · simp only [giveVerdict, hw, hjudge]
    rfl
  · rw [hrefuse (by omega) hjudge, if_pos hused]
  · rw [hrefuse (by omega) hjudge, if_neg (by omega), if_pos hphase]

/-! ## Drift -/

theorem inOffsetWindow_iff (z : Int) : inOffsetWindow z = true ↔ -20000 ≤ z ∧ z ≤ 20000 := by
  rw [inOffsetWindow, decide_eq_true_eq]
  omega

/-- The realign test of a wafer with a record (R65). -/
theorem realignTest_of_wafer {s : State} {i : Nat} {w : Wafer} (h : waferAt s i = some w) : realignTest i s =
    if (param s 5 ≤ w.drift.x.natAbs ∨ param s 5 ≤ w.drift.y.natAbs) ∧ w.align.state = .none ∧
      w.aborting = false ∧ w.phase = .reviewing then startRealign i 1 s else s := by
  rw [realignTest, h]
  refine if_congr ?_ rfl rfl
  simp only [Bool.and_eq_true, Bool.or_eq_true, decide_eq_true_eq, beq_iff_eq, Bool.not_eq_true', and_assoc]

/-- Settles O34. -/
theorem Settled.driftUpdate : Obligations.DriftUpdate := by
  intro i r s w hw k moved d inWindow u due
  have hwindow : (r.found && inOffsetWindow r.offset.x && inOffsetWindow r.offset.y) = true ↔ inWindow := by
    rw [Bool.and_eq_true, Bool.and_eq_true, inOffsetWindow_iff, inOffsetWindow_iff, and_assoc, and_assoc]
  have hmoved : updWafer i (fun w => { w with
      drift := ⟨driftStep (param s 4) w.drift.x r.offset.x, driftStep (param s 4) w.drift.y r.offset.y⟩ }) s = u :=
    updWafer_congr hw rfl
  have hrecord : waferAt u i = some { w with drift := d } := by
    rw [waferAt_updWafer_same, hw, Option.map_some]
  have hin : inWindow → Machine.driftUpdate i r s = if due then startRealign i 1 u else u := by
    intro h
    rw [Machine.driftUpdate, if_pos (hwindow.mpr h), hmoved, realignTest_of_wafer hrecord]
    rfl
  refine ⟨fun hnot => if_neg fun h => hnot (hwindow.mp h), fun h hnot => (hin h).trans (if_neg hnot), fun h hdue => ?_⟩
  rw [hin h, if_pos hdue, startRealign_of_wafer hrecord]
  rfl

/-! ## The take -/

/-- Settles O38. -/
theorem takeLooksAtHead : Obligations.TakeLooksAtHead := by
  refine ⟨fun i e es s w st t hw hst ht => ?_, fun e s w st t hw hst ht => ?_, fun s => ?_⟩
  · intro used travel
    have hused : isSampledOut s e = true ↔ used := by
      have hquota : quotaOf s e = st.quotas.getD e.roughClass 0 := by rw [quotaOf, hst]; rfl
      have huse : classUseOf s e = w.classUse.getD e.roughClass 0 := by rw [classUseOf, hw]; rfl
      rw [isSampledOut, hquota, huse, Bool.and_eq_true, Bool.not_eq_true', decide_eq_true_eq]
    have htravel : inTravel s t = true ↔ travel := by
      rw [inTravel, Bool.and_eq_true, decide_eq_true_eq, decide_eq_true_eq]
    have hhead : ¬ used → takeFrom i (e :: es) s =
        if inTravel s t then beginVisit e t s else takeFrom i es (retireEntry .outOfRange e s) := by
      intro hnot
      rw [takeFrom, if_neg fun h => hnot (hused.mp h), ht]
    refine ⟨fun h => ?_, fun hnot hout => ?_, fun hnot hin => ?_, fun x hx => ?_⟩
    · rw [takeFrom, if_pos (hused.mpr h)]
    · rw [hhead hnot, if_neg fun h => hout (htravel.mp h)]
    · rw [hhead hnot, if_pos (htravel.mpr hin)]
    · rw [takeFrom, takeNone, hx]
      refine if_congr ?_ rfl rfl
      rw [Bool.and_eq_true, Bool.not_eq_true']
  · intro l ux uy
    rw [targetOf, hw, hst]
    simp only [ht]
    rfl
  · intro may
    refine ⟨fun i hmay => dispatch_of_some ((dispatchWafer_eq_some_iff s i).mpr hmay), fun hnot => ?_⟩
    exact dispatch_of_none (dispatchWafer_eq_none_of fun i hi => hnot i ((dispatchWafer_eq_some_iff s i).mp hi))

end Sys2Proof.Machine
end

-- ==== Proofs: the rows of the handler link and of its timers (R23 to R28, R33, R34, R41 to R45, R192) ====
section
namespace Sys2Proof.Machine

/-! ## Rows of the units -/

/-- The row of a unit: its effect, and the planner run that ends the step. -/
theorem exec_unit {c : Instr} (f : State → State) (hc : unitEffect c = some f) {s t : State} (hf : f s = t) :
    exec c s = .next (finish t) := by
  rw [exec_of_unitEffect hc, hf]

/-- The same, where no planner run is due after the effect. -/
theorem exec_unit_idle {c : Instr} (f : State → State) (hc : unitEffect c = some f) {s t : State} (hf : f s = t)
    (ht : NoRunDue t) : exec c s = .next t := by
  rw [exec_unit f hc hf, finish_idle _ ht]

theorem noRunDue_of_handling {s t : State} (hs : NoRunDue s) (h : t.handling = s.handling) : NoRunDue t := by
  rw [NoRunDue, h]
  exact hs

/-! ## PORT, SLOTMAP, resets and the clock -/

/-- Settles O27. -/
theorem portMessages : Obligations.PortMessages := by
  refine ⟨fun p present opened s hrun => ?_, fun p flags s hrun => ?_⟩
  · intro q raw q'
    refine ⟨fun hsame => exec_unit_idle (takePort p present opened) rfl (if_pos hsame) hrun, fun hnew => ?_⟩
    cases p with
    | one => exact exec_unit_idle (takePort .one present opened) rfl (if_neg hnew) hrun
    | two => exact exec_unit_idle (takePort .two present opened) rfl (if_neg hnew) hrun
  · refine ⟨fun hclosed => exec_unit_idle (takeSlotmap p flags) rfl (if_neg (Bool.eq_false_iff.mp hclosed)) hrun,
      fun hopen => ?_⟩
    cases p with
    | one => exact exec_unit_idle (takeSlotmap .one flags) rfl (if_pos hopen) hrun
    | two => exact exec_unit_idle (takeSlotmap .two flags) rfl (if_pos hopen) hrun

/-- Settles O49. -/
theorem resetsAndTick : Obligations.ResetsAndTick :=
  ⟨fun _ => ⟨rfl, rfl⟩, fun _ hrun => exec_unit_idle tick rfl rfl hrun⟩

/-! ## A port that changes -/

/-- How many records of a lot pass a test. -/
theorem countP_wafersOfLot (s : State) (run : Nat) (p : Wafer → Bool) :
    (wafersOfLot s run).countP (fun i => (waferAt s i).any p) =
      (List.range 50).countP fun i => (waferAt s i).any fun w => w.run == run && p w := by
  rw [wafersOfLot, List.countP_filter]
  refine List.countP_congr fun i _ => ?_
  cases waferAt s i with
  | none => rfl
  | some w => simp only [Option.any_some, Bool.and_comm]

/-- Settles O28. -/
theorem debounceTimerExpiry : Obligations.DebounceTimerExpiry := by
  intro p s hrun q was now s1 s2 s3
  refine ⟨fun htimer => ?_, fun htimer => exec_unit_idle (expireDebounce p) rfl (if_neg htimer) hrun, fun l hl => ?_,
    fun hnone => ?_⟩
  · refine exec_unit (expireDebounce p) rfl ((if_pos htimer).trans ?_)
    simp only [Bool.and_eq_true, Bool.not_eq_true', and_assoc]
    rfl
  · intro n
    have hcount : outCount s l.run = n := countP_wafersOfLot s l.run fun w => w.location != .slot
    rw [portClosed, hl]
    simp only [hcount]
  · rw [portClosed, hnone]

/-! ## Prealigning -/

/-- Settles O26. -/
theorem prealignEnds : Obligations.PrealignEnds := by
  refine ⟨fun wafer notch x y s hrun => ?_, fun wafer s hrun => ?_⟩
  · refine ⟨fun t ht => exec_unit (takePrealigned _ _) rfl ?_, fun hother => exec_unit_idle (takePrealigned _ _) rfl ?_ hrun⟩
    · rw [takePrealigned, ht]
      exact if_pos rfl
    · unfold takePrealigned
      split
      · rfl
      next j _ hj => exact if_neg (hother _ hj)
  · intro failed planned
    have hfail : ∀ i w cause c, word cause = c → waferAt s i = some w → w.phase = .prealigning →
        failPrealign i cause s = wantPlan (failed i c) := by
      rintro i w cause c rfl hw hphase
      have hany : ((waferAt (clearPrealign s) i).any fun w => w.phase == .prealigning) = true := by
        rw [waferAt_congr (clearPrealign_wafers s), hw, Option.any_some, hphase]
        rfl
      simp only [failPrealign, hany, if_true]
      rfl
    refine ⟨fun i t w hp hw hphase => ⟨fun hi => exec_unit (takePrealignFail _) rfl ?_,
        fun ht => exec_unit expirePrealign rfl ?_⟩,
      fun hother => exec_unit_idle (takePrealignFail _) rfl ?_ hrun, fun hleft => exec_unit_idle expirePrealign rfl ?_ hrun⟩
    · rw [takePrealignFail, hp]
      subst hi
      exact (if_pos rfl).trans (hfail _ w 1 1 rfl hw hphase)
    · rw [expirePrealign, hp]
      exact (if_pos ht).trans (hfail i w 2 2 rfl hw hphase)
    · unfold takePrealignFail
      split
      · rfl
      next j _ hj => exact if_neg (hother _ hj)
    · unfold expirePrealign
      split
      · rfl
      next j _ hj => exact if_neg (hleft _ hj)

end Sys2Proof.Machine
end

-- ==== Proofs: the end of handler orders, and carriers that are removed (R23 to R28, R44, R45) ====
section
namespace Sys2Proof.Machine

/-! ## A wafer's move -/

section
variable (s : State) (i : Nat) (l : Location)

/-- A wafer's move touches its record and the focus unit alone. -/
theorem moveWafer_frame : ∃ ws f, moveWafer i l s = { s with wafers := ws, focus := f } := by
  unfold moveWafer
  split
  · exact ⟨_, _, rfl⟩
  · dsimp only
    split
    · exact ⟨_, _, rfl⟩
    · exact ⟨_, _, rfl⟩

@[simp] theorem moveWafer_handling : (moveWafer i l s).handling = s.handling := by
  obtain ⟨ws, f, h⟩ := moveWafer_frame s i l
  rw [h]

@[simp] theorem moveWafer_cmd : (moveWafer i l s).cmd = s.cmd := by
  obtain ⟨ws, f, h⟩ := moveWafer_frame s i l
  rw [h]

@[simp] theorem moveWafer_path : (moveWafer i l s).path = s.path := by
  obtain ⟨ws, f, h⟩ := moveWafer_frame s i l
  rw [h]

@[simp] theorem moveWafer_lots : (moveWafer i l s).lots = s.lots := by
  obtain ⟨ws, f, h⟩ := moveWafer_frame s i l
  rw [h]

end

theorem waferAt_moveWafer_same {s : State} {i : Nat} {w : Wafer} (h : waferAt s i = some w) (l : Location) :
    waferAt (moveWafer i l s) i = some { w with location := l } := (waferMoves i l s w h).1

theorem param_congr {s t : State} (h : t.cmd = s.cmd) (n : Nat) : param t n = param s n := by
  rw [param, param, h]

theorem paramNat_congr {s t : State} (h : t.cmd = s.cmd) (n : Nat) : paramNat t n = paramNat s n := by
  rw [paramNat, paramNat, param_congr h]

theorem anyUnknown_iff (s : State) :
    anyUnknown s = true ↔ ∃ i w, i < 50 ∧ waferAt s i = some w ∧ w.location = .unknown := by
  rw [anyUnknown, ← Bool.not_eq_false, ← Bool.not_eq_true', not_iff_comm]
  have hnone : (!(waferIn s .unknown).isSome) = true ↔ waferIn s .unknown = none := by
    rw [Bool.not_eq_true', Option.isSome_eq_false_iff, Option.isNone_iff_eq_none]
  rw [hnone, waferIn, findWafer_eq_none_iff]
  simp only [beq_eq_false_iff_ne]
  push Not
  rfl

theorem anyUnknown_congr {s t : State} (h : t.wafers = s.wafers) : anyUnknown t = anyUnknown s := by
  have hat : waferAt t = waferAt s := funext (waferAt_congr h)
  simp only [anyUnknown, waferIn, findWafer, hat]

theorem anyUnknown_of_wafer {s : State} {i : Nat} {w : Wafer} (hi : i < 50) (hw : waferAt s i = some w)
    (hl : w.location = .unknown) : anyUnknown s = true := (anyUnknown_iff s).mpr ⟨i, w, hi, hw, hl⟩

theorem postEvent_noRunDue {s : State} (h : NoRunDue s) (k : EventKind) (w : Option Nat) (a b : Word) :
    NoRunDue (postEvent k w a b s) := noRunDue_of_handling h (postEvent_handling s k w a b)

/-! ## A DONE by its result -/

theorem takeDone_ok {s : State} {o : Order} (h : s.handling.order = some o) :
    takeDone o.tag .ok s = resolveEnd o none (completeOrder o s) := by
  rw [takeDone, h]
  exact if_neg (not_not.mpr rfl)

theorem takeDone_fault {s : State} {o : Order} (h : s.handling.order = some o) :
    takeDone o.tag .fault s = resolveEnd o (some haltFault) (loseWafer o s) := by
  rw [takeDone, h]
  exact if_neg (not_not.mpr rfl)

theorem takeDone_notMoved {s : State} {o : Order} (h : s.handling.order = some o) {r : DoneResult}
    (hr : r = .notPicked ∨ r = .notPlaced) : takeDone o.tag r s = notMoved o s := by
  rw [takeDone, h]
  rcases hr with rfl | rfl <;> exact if_neg (not_not.mpr rfl)

/-! ## The end of an order with no removal waiting -/

/-- Handling is IDLE, and the planner runs (R23). -/
theorem resolveEnd_idle {s : State} (h : s.handling.removals = []) (o : Order) :
    resolveEnd o none s = idleHandling s := by
  rw [resolveEnd, h]

/-- Handling is HALTED, and HANDLER_HALT gives the reason (R25 to R27). -/
theorem resolveEnd_halt {s : State} (h : s.handling.removals = []) (o : Order) (r : Nat) :
    resolveEnd o (some r) s = haltHandling (some o.wafer) r (word o.tag.toNat) s := by
  rw [resolveEnd, h]

theorem startPrealign_of_wafer {s : State} {i : Nat} {w : Wafer} (h : waferAt s i = some w) : startPrealign i s =
    if w.phase = .toPA then
      { updWafer i (fun x => { x with phase := .prealigning }) s with
        handling := { s.handling with prealign := some (i, paramNat s 2) } }
    else s := by
  rw [startPrealign, h]
  rfl

theorem startAlign_handling (s : State) (i : Nat) : (startAlign i s).handling = s.handling := by
  unfold startAlign
  split
  · rfl
  · exact postEvent_handling _ _ _ _ _

/-- A wafer arrives on the stage (R24). -/
theorem arriveOnStage_of_wafer {s : State} {i : Nat} {w : Wafer} (h : waferAt s i = some w) : arriveOnStage i s =
    if w.phase = .prealigned then startAlign i (postEvent .waferOnStage (some i) w.lotNumber 0 s)
    else postEvent .waferOnStage (some i) w.lotNumber 0 s := by
  simp only [arriveOnStage, h]

/-- The signed halves of a packed pair are its halves. -/
theorem packPair_toInt (x y : BitVec 16) : packPair x.toInt y.toInt = word (x.toNat + 65536 * y.toNat) := by
  rw [packPair, BitVec.ofInt_toInt, BitVec.ofInt_toInt, put_of_lt x.isLt, put_of_lt y.isLt]
  norm_num

/-- Settles O23. -/
theorem doneOk : Obligations.DoneOk := by
  refine ⟨fun o s w ho halone hw => ?_, fun i s w hw => ?_⟩
  · intro moved idle
    have hmoved : waferAt moved o.wafer = some { w with location := o.dst } :=
      waferAt_moveWafer_same (s := clearOrder s) hw o.dst
    have hremovals : moved.handling.removals = [] :=
      (congrArg (·.removals) (moveWafer_handling (clearOrder s) _ _)).trans halone
    have hend : ∀ t, afterArrival o moved = t → t.handling.removals = [] →
        exec (.done o.tag .ok) s = .next (finish (idle t)) := by
      intro t ht hr
      refine exec_unit (takeDone o.tag .ok) rfl ((takeDone_ok ho).trans ?_)
      have hcomplete : completeOrder o s = t := ht
      rw [hcomplete, resolveEnd_idle hr]
      rfl
    refine ⟨fun hdst => hend moved ?_ hremovals, fun hdst hphase => hend moved ?_ hremovals, fun hdst hphase => ?_,
      fun hdst => hend _ (by rw [afterArrival, hdst]) ?_, fun hdst => ?_⟩
    · unfold afterArrival
      rcases hdst with hdst | hdst | hdst <;> rw [hdst]
    · rw [afterArrival, hdst]
      exact (startPrealign_of_wafer hmoved).trans (if_neg hphase)
    · intro p
      refine hend _ ?_ hremovals
      rw [afterArrival, hdst]
      refine (startPrealign_of_wafer hmoved).trans ((if_pos hphase).trans ?_)
      rw [paramNat_congr (moveWafer_cmd _ _ _)]
      rfl
    · exact (settleHome_units moved o.wafer).2.2.2.trans hremovals
    · intro shown
      refine hend _ ?_ ?_
      · rw [afterArrival, hdst]
        have harrive := arriveOnStage_of_wafer hmoved
        exact harrive
      · have hshown : shown.handling.removals = [] :=
          (congrArg (·.removals) (postEvent_handling _ _ _ _ _)).trans hremovals
        split
        · rw [startAlign_handling, hshown]
        · exact hshown
  · have hpack : ∀ p : Prealign, packPair p.offsetX.toInt p.offsetY.toInt =
        word (p.offsetX.toNat + 65536 * p.offsetY.toNat) := fun p => packPair_toInt _ _
    cases hp : w.prealign with
    | none =>
      simp only [startAlign, hw, hp]
      rfl
    | some p =>
      simp only [startAlign, hw, hp, Option.getD_some, hpack]
      rfl

/-! ## Orders that fail -/

theorem cutBeforePick_iff {s : State} {o : Order} {w : Wafer} (h : waferAt s o.wafer = some w) :
    cutBeforePick s o = true ↔ o.kind = .pick ∧ o.src = .slot ∧ w.phase = .reviewDone := by
  rw [cutBeforePick, h, Option.any_some, Bool.and_eq_true, Bool.and_eq_true, beq_iff_eq, beq_iff_eq, beq_iff_eq,
    and_assoc]

/-- A first NOT_PICKED or NOT_PLACED that is not sent again. -/
theorem notMoved_of_not_retried {s : State} {o : Order} (hretry : o.retry = false) (hreset : s.cmd.resetting = false)
    (h : isRetried s o = false) :
    notMoved o s = resolveEnd o none (settleHome o.wafer (clearOrder s)) := by
  rw [notMoved, hretry, hreset, h]
  rfl

theorem notMoved_of_resetting {s : State} {o : Order} (hretry : o.retry = false) (hreset : s.cmd.resetting = true) :
    notMoved o s = idleHandling (settleHome o.wafer (clearOrder s)) := by
  rw [notMoved, hretry, hreset]
  rfl

theorem notMoved_of_retry {s : State} {o : Order} (hretry : o.retry = true) :
    notMoved o s = resolveEnd o (some haltRetryFailed) (loseWafer o s) := by
  rw [notMoved, hretry]
  rfl

/-- The order as it is sent again: the next tag, attempt RETRY, a new timer (R25). -/
theorem sendOrder_again (o : Order) (s : State) : sendOrder o.again true s = { s with
    out := .order (s.handling.tag + 1) o.kind o.wafer o.src o.dst o.arm :: s.out
    handling := { s.handling with
      tag := s.handling.tag + 1
      state := .busy
      order := some { o with
        tag := s.handling.tag + 1
        retry := true
        timer := match o.kind with
          | .transfer => paramNat s 1
          | .pick => paramNat s 0
          | .place => paramNat s 0 } } } := by
  obtain ⟨tag, kind, wafer, src, dst, arm, retry, timer⟩ := o
  cases kind <;> rfl

/-- Settles O24. -/
theorem doneFailed : Obligations.DoneFailed := by
  intro o r s w hrun ho hw cleared lost halted cut alone
  have hlost : alone → ∀ n, resolveEnd o (some n) (loseWafer o s) = halted (word n) := by
    intro ha n
    have hr : (loseWafer o s).handling.removals = [] :=
      (congrArg (·.removals) (moveWafer_handling cleared _ _)).trans ha
    rw [resolveEnd_halt hr]
    rfl
  have hidle : ∀ c, NoRunDue (halted c) := by
    intro c
    have hdue : lost.handling.runDue = s.handling.runDue := congrArg (·.runDue) (moveWafer_handling cleared _ _)
    refine postEvent_noRunDue ?_ _ _ _ _
    exact hdue.trans hrun
  refine ⟨fun ha => ?_, fun hr => ⟨fun hretry ha => ?_, fun hretry ha hnot hreset => ?_, fun hretry hcase => ?_⟩⟩
  · exact exec_unit_idle (takeDone o.tag .fault) rfl ((takeDone_fault ho).trans (hlost ha 1)) (hidle 1)
  · refine exec_unit_idle (takeDone o.tag r) rfl ((takeDone_notMoved ho hr).trans ?_) (hidle 3)
    exact (notMoved_of_retry hretry).trans (hlost ha 3)
  · refine exec_unit_idle (takeDone o.tag r) rfl ((takeDone_notMoved ho hr).trans ?_) hrun
    have hretried : isRetried s o = true := by
      rw [isRetried, Bool.and_eq_true, List.isEmpty_iff, Bool.not_eq_true', Bool.eq_false_iff]
      exact ⟨ha, fun hc => hnot ((cutBeforePick_iff hw).mp hc)⟩
    rw [notMoved, hretry, hreset, hretried]
    exact sendOrder_again o s
  · refine exec_unit (takeDone o.tag r) rfl ((takeDone_notMoved ho hr).trans ?_)
    cases hreset : s.cmd.resetting with
    | true => exact notMoved_of_resetting hretry hreset
    | false =>
      obtain ⟨ha, hc⟩ := hcase.resolve_right fun h => Bool.false_ne_true (hreset.symm.trans h)
      have hretried : isRetried s o = false := by
        rw [isRetried, (cutBeforePick_iff hw).mpr hc, Bool.not_true, Bool.and_false]
      refine (notMoved_of_not_retried hretry hreset hretried).trans (resolveEnd_idle ?_ o)
      exact (settleHome_units cleared o.wafer).2.2.2.trans ha

/-! ## The end of an order with a removal waiting -/

/-- The record of the order's wafer is that of a wafer which the removal makes UNKNOWN (R45). -/
theorem removeLate_of_late {s : State} {i : Nat} {w : Wafer} (h : waferAt s i = some w)
    (hlot : ∃ r ∈ s.handling.removals, r.1 = w.run) (hplace : w.location.isHandlers = true) :
    removeLate i s = moveWafer i .unknown s := by
  rw [removeLate, h]
  refine if_pos ?_
  obtain ⟨r, hr, hrun⟩ := hlot
  rw [Bool.and_eq_true, List.any_eq_true]
  exact ⟨⟨r, hr, beq_iff_eq.mpr hrun⟩, hplace⟩

theorem removeLate_of_not_late {s : State} {i : Nat} (h : ∀ w, waferAt s i = some w →
    ¬ ((∃ r ∈ s.handling.removals, r.1 = w.run) ∧ w.location.isHandlers = true)) : removeLate i s = s := by
  unfold removeLate
  split
  · rfl
  next w hw =>
    refine if_neg fun hlate => h w hw ?_
    rw [Bool.and_eq_true, List.any_eq_true] at hlate
    obtain ⟨⟨r, hr, hrun⟩, hplace⟩ := hlate
    exact ⟨⟨r, hr, beq_iff_eq.mp hrun⟩, hplace⟩

/-- Handling in a state with no removal waiting any more. -/
def removalsDone (h : HandlingState) (s : State) : State :=
  { s with handling := { s.handling with state := h, removals := [] } }

/-- HANDLER_HALT with reason CARRIER_REMOVED (R45). -/
def carrierHalt (p : Port) (s : State) : State :=
  postEvent .handlerHalt (waferIn s .unknown) 4 (word (portNumber p)) (removalsDone .halted s)

/-- With a removal waiting and the order's wafer not of its lot in the handler, R45 looks for an UNKNOWN wafer. -/
theorem resolveEnd_waiting {s : State} {run : Nat} {p : Port} {rest : List (Nat × Port)}
    (h : s.handling.removals = (run, p) :: rest) {o : Order} (hsame : removeLate o.wafer s = s) :
    resolveEnd o none s = if anyUnknown s then carrierHalt p s else wantPlan (removalsDone .idle s) := by
  rw [resolveEnd, h]
  simp only [hsame]
  rfl

/-- With a removal waiting, an order that lost its wafer gives its own reason (R45). -/
theorem resolveEnd_waiting_halt {s : State} {run : Nat} {p : Port} {rest : List (Nat × Port)}
    (h : s.handling.removals = (run, p) :: rest) {o : Order} {w : Wafer} (hw : waferAt s o.wafer = some w)
    (hi : o.wafer < 50) (hl : w.location = .unknown) (r : Nat) : resolveEnd o (some r) s =
      postEvent .handlerHalt (some o.wafer) (word r) (word o.tag.toNat) (removalsDone .halted s) := by
  have hsame : removeLate o.wafer s = s := removeLate_of_not_late fun x hx hlate => by
    obtain rfl : x = w := Option.some.inj (hx.symm.trans hw)
    rw [hl] at hlate
    exact Bool.false_ne_true hlate.2
  have hunknown : anyUnknown { s with handling := { s.handling with removals := [] } } = true :=
    anyUnknown_of_wafer (s := { s with handling := { s.handling with removals := [] } }) hi hw hl
  rw [resolveEnd, h]
  simp only [hsame, hunknown]
  rfl

/-- With a removal waiting, the order's wafer that it finds in the handler is UNKNOWN (R45). -/
theorem resolveEnd_waiting_late {s : State} {run : Nat} {p : Port} {rest : List (Nat × Port)}
    (h : s.handling.removals = (run, p) :: rest) {o : Order} {w : Wafer} (hw : waferAt s o.wafer = some w)
    (hi : o.wafer < 50) (hlot : ∃ r ∈ s.handling.removals, r.1 = w.run) (hplace : w.location.isHandlers = true) :
    resolveEnd o none s = carrierHalt p (moveWafer o.wafer .unknown s) := by
  have hunknown : anyUnknown { moveWafer o.wafer .unknown s with
      handling := { (moveWafer o.wafer .unknown s).handling with removals := [] } } = true :=
    anyUnknown_of_wafer (s := { moveWafer o.wafer .unknown s with
      handling := { (moveWafer o.wafer .unknown s).handling with removals := [] } }) hi (waferAt_moveWafer_same hw _) rfl
  rw [resolveEnd, h]
  simp only [removeLate_of_late hw hlot hplace, hunknown]
  rfl

/-- Settles O25. -/
theorem orderTimerExpiry : Obligations.OrderTimerExpiry := by
  refine ⟨fun s hrun halone => ⟨fun o w ho htimer hw => ?_, fun hleft => ?_⟩,
    fun o s w hrun hwaiting ho htimer hi hw => ?_, fun tag r s hrun hother => ?_⟩
  · intro lost
    have hhandling : lost.handling = { s.handling with order := none } := moveWafer_handling _ _ _
    refine exec_unit_idle expireOrder rfl ?_ ?_
    · rw [expireOrder, ho]
      refine (if_pos htimer).trans (resolveEnd_halt ?_ o 2)
      exact (congrArg (·.removals) hhandling).trans halone
    · have hdue : lost.handling.runDue = s.handling.runDue := congrArg (·.runDue) hhandling
      refine postEvent_noRunDue ?_ _ _ _ _
      exact hdue.trans hrun
  · refine exec_unit_idle expireOrder rfl ?_ hrun
    unfold expireOrder
    split
    · rfl
    next o ho => exact if_neg (hleft o ho)
  · intro lost
    have hhandling : lost.handling = { s.handling with order := none } := moveWafer_handling _ _ _
    obtain ⟨⟨run, p⟩, rest, hremovals⟩ := List.exists_cons_of_ne_nil hwaiting
    have hlost : waferAt { lost with handling := { lost.handling with lastExpired := some (o.tag, o.wafer) } } o.wafer =
        some { w with location := .unknown } := waferAt_moveWafer_same (s := clearOrder s) hw .unknown
    refine exec_unit_idle expireOrder rfl ?_ ?_
    · rw [expireOrder, ho]
      refine (if_pos htimer).trans (resolveEnd_waiting_halt (run := run) (p := p) (rest := rest) ?_ hlost hi rfl 2)
      exact (congrArg (·.removals) hhandling).trans hremovals
    · have hdue : lost.handling.runDue = s.handling.runDue := congrArg (·.runDue) hhandling
      refine postEvent_noRunDue ?_ _ _ _ _
      exact hdue.trans hrun
  · have hcode : word (doneCode r) = match r with | .ok => 0 | .notPicked => 1 | .notPlaced => 2 | .fault => 3 := by
      cases r <;> rfl
    have hlate : takeDone tag r s = lateDone tag r s := by
      unfold takeDone
      split
      · rfl
      next o ho => exact if_pos (hother o ho)
    have hwafer : (s.handling.lastExpired.filter fun e => e.1 == tag).map (·.2) = match s.handling.lastExpired with
        | some e => if e.1 = tag then some e.2 else none
        | none => none := by
      cases s.handling.lastExpired with
      | none => rfl
      | some e =>
        by_cases he : e.1 = tag
        · rw [Option.filter_some, if_pos (beq_iff_eq.mpr he)]
          exact (if_pos he).symm
        · rw [Option.filter_some, if_neg fun hb => he (beq_iff_eq.mp hb)]
          exact (if_neg he).symm
    refine exec_unit_idle (takeDone tag r) rfl (hlate.trans ?_) (noRunDue_of_handling hrun (postEvent_handling _ _ _ _ _))
    rw [lateDone, hcode, hwafer] <;> rfl

end Sys2Proof.Machine
end

-- ==== Proofs: a carrier is removed, with and without an order in flight (R44, R45) ====
section
namespace Sys2Proof.Machine

theorem Location.isHandlers_eq (l : Location) : l.isHandlers = (l == .armU || l == .armL || l == .pa || l == .ll) := by
  cases l <;> rfl

theorem Location.isHandlers_iff (l : Location) :
    l.isHandlers = true ↔ l = .armU ∨ l = .armL ∨ l = .pa ∨ l = .ll := by
  cases l <;> simp [Location.isHandlers]

theorem removedWafers_eq (s : State) (run : Nat) : removedWafers s run = (List.range 50).filter fun i =>
    (waferAt s i).any (fun w => w.run == run &&
      (w.location == .armU || w.location == .armL || w.location == .pa || w.location == .ll)) && !orderMoves s i := by
  rw [removedWafers, wafersOfLot, List.filter_filter]
  refine List.filter_congr fun i _ => ?_
  cases waferAt s i with
  | none => rfl
  | some w =>
    simp only [Option.any_some, ← Location.isHandlers_eq]
    cases w.run == run <;> cases w.location.isHandlers <;> simp

/-- A carrier that is removed, where a lot uses the port (R44). -/
theorem carrierRemoved_of_lot {s s1 : State} {p : Port} {l : Lot} {gone : List Nat} {n : Word}
    (hl : lotOnPort s p = some l)
    (hs1 : (if l.state = .aborting ∨ l.state = .closing then s else abortLot l.run s) = s1)
    (hgone : removedWafers s1 l.run = gone) (hn : word (portNumber p) = n) :
    let s2 := gone.foldl (fun s i => moveWafer i .unknown s) s1
    carrierRemoved p s =
      if s2.handling.order ≠ none then
        { s2 with handling := { s2.handling with removals := s2.handling.removals ++ [(l.run, p)] } }
      else if gone = [] ∨ s2.handling.state = .halted then s2
      else postEvent .handlerHalt gone.head? 4 n { s2 with handling := { s2.handling with state := .halted } } := by
  intro s2
  subst hs1 hgone hn
  rw [carrierRemoved, hl]
  refine if_congr ?_ rfl (if_congr ?_ rfl rfl)
  · rw [Option.isSome_iff_ne_none]
  · rw [Bool.or_eq_true, List.isEmpty_iff, beq_iff_eq]

/-- The lot of a removal that waits is that of a wafer. -/
def waitsForLot (s : State) (run : Nat) : Prop := ∃ r ∈ s.handling.removals, r.1 = run

/-- How an order with a removal waiting ends, once its own effects are made and no wafer of it is removed late. -/
theorem done_waiting {s t : State} {o : Order} {r : DoneResult} {run : Nat} {p : Port} {rest : List (Nat × Port)}
    (hend : takeDone o.tag r s = resolveEnd o none t) (hremovals : t.handling.removals = (run, p) :: rest)
    (hsame : removeLate o.wafer t = t) : exec (.done o.tag r) s = .next (finish
      (if anyUnknown t = true then carrierHalt p t else wantPlan (removalsDone .idle t))) :=
  exec_unit (takeDone o.tag r) rfl (hend.trans (resolveEnd_waiting hremovals hsame))

/-- The same, where the order leaves its wafer in the handler and the removal's lot is the wafer's. -/
theorem done_waiting_late {s t : State} {o : Order} {r : DoneResult} {run : Nat} {p : Port} {rest : List (Nat × Port)}
    (hend : takeDone o.tag r s = resolveEnd o none t) (hremovals : t.handling.removals = (run, p) :: rest)
    (hrun : NoRunDue t) {w : Wafer} (hw : waferAt t o.wafer = some w) (hi : o.wafer < 50)
    (hlot : waitsForLot t w.run) (hplace : w.location.isHandlers = true) :
    exec (.done o.tag r) s = .next (carrierHalt p (moveWafer o.wafer .unknown t)) := by
  refine exec_unit_idle (takeDone o.tag r) rfl (hend.trans (resolveEnd_waiting_late hremovals hw hi hlot hplace)) ?_
  refine postEvent_noRunDue ?_ _ _ _ _
  have hdue : (moveWafer o.wafer .unknown t).handling.runDue = t.handling.runDue :=
    congrArg (·.runDue) (moveWafer_handling _ _ _)
  exact hdue.trans hrun

/-- Settles O48. The first part follows `carrierRemoved`; in the second the order's own effects give a state whose
record of the wafer decides by `removeLate` whether it is removed late. -/
theorem carrierRemoval : Obligations.CarrierRemoval := by
  have hport : ∀ p : Port, word (portNumber p) = word (match p with | .one => 1 | .two => 2) := fun p => by
    cases p <;> rfl
  refine ⟨fun p s => ⟨fun hnone => ?_, fun l hl => ?_⟩, fun o s w run p rest hrun ho hremovals hw hi => ?_⟩
  · rw [carrierRemoved, hnone]
  · intro s1 gone s2
    exact carrierRemoved_of_lot hl rfl (removedWafers_eq s1 l.run) (hport p)
  · intro cleared ended ofLot removed arrived
    have hcarrier : ∀ t, removed t = carrierHalt p t := fun t =>
      congrArg (fun b => postEvent .handlerHalt (waferIn t .unknown) 4 b (ended .halted t)) (hport p).symm
    have harrived : waferAt arrived o.wafer = some { w with location := o.dst } :=
      waferAt_moveWafer_same (s := clearOrder s) hw o.dst
    have hhandling : arrived.handling = cleared.handling := moveWafer_handling _ _ _
    have hremovals' : arrived.handling.removals = (run, p) :: rest := (congrArg (·.removals) hhandling).trans hremovals
    have hlost : waferAt (loseWafer o s) o.wafer = some { w with location := .unknown } :=
      waferAt_moveWafer_same (s := clearOrder s) hw .unknown
    have hlostHandling : (loseWafer o s).handling = cleared.handling := moveWafer_handling _ _ _
    have hlostEnd : ∀ r n, takeDone o.tag r s = resolveEnd o (some n) (loseWafer o s) → exec (.done o.tag r) s =
        .next (postEvent .handlerHalt (some o.wafer) (word n) (word o.tag.toNat)
          (ended .halted (moveWafer o.wafer .unknown cleared))) := by
      intro r n hend
      refine exec_unit_idle (takeDone o.tag r) rfl (hend.trans (resolveEnd_waiting_halt
        ((congrArg (·.removals) hlostHandling).trans hremovals) hlost hi rfl n)) (postEvent_noRunDue ?_ _ _ _ _)
      have hdue : (loseWafer o s).handling.runDue = s.handling.runDue := congrArg (·.runDue) hlostHandling
      exact hdue.trans hrun
    have hnotRetried : isRetried s o = false := by
      rw [isRetried, hremovals]
      rfl
    have hstays : ∀ r, r = .notPicked ∨ r = .notPlaced → o.retry = false → s.cmd.resetting = false →
        takeDone o.tag r s = resolveEnd o none (settleHome o.wafer cleared) := fun r hr hretry hreset =>
      (takeDone_notMoved ho hr).trans (notMoved_of_not_retried hretry hreset hnotRetried)
    have hdone : ∀ t, afterArrival o arrived = t → takeDone o.tag .ok s = resolveEnd o none t := fun t ht =>
      (takeDone_ok ho).trans (congrArg (resolveEnd o none) ht)
    have hhome : ∀ t : State, t.handling.removals = (run, p) :: rest →
        (settleHome o.wafer t).handling.removals = (run, p) :: rest := fun t ht =>
      (settleHome_units t o.wafer).2.2.2.trans ht
    have harrivedRun : NoRunDue arrived := by
      have hdue : arrived.handling.runDue = s.handling.runDue := congrArg (·.runDue) hhandling
      exact hdue.trans hrun
    refine ⟨?fault, ?plain, ?resetting, ?late, ?pa, ?slot, ?stage, ?retried, ?stays⟩
    case fault => exact hlostEnd .fault 1 (takeDone_fault ho)
    case plain =>
      intro hdst
      have hafter : afterArrival o arrived = arrived := by
        unfold afterArrival
        rcases hdst with hdst | hdst | hdst <;> rw [hdst]
      have hplace : o.dst.isHandlers = true := by
        rcases hdst with hdst | hdst | hdst <;> rw [hdst] <;> rfl
      have hnotLate : ¬ ofLot → removeLate o.wafer arrived = arrived := fun hnot =>
        removeLate_of_not_late fun x hx hlate => by
          obtain rfl := Option.some.inj (harrived.symm.trans hx)
          obtain ⟨r, hr, hrr⟩ := hlate.1
          have hmem : r ∈ cleared.handling.removals := hhandling ▸ hr
          exact hnot ⟨r, hmem, hrr⟩
      refine ⟨fun hlot => ?_, fun hnot hany => ?_, fun hnot hnone => ?_⟩
      · rw [hcarrier]
        refine done_waiting_late (hdone _ hafter) hremovals' harrivedRun harrived hi ?_ hplace
        obtain ⟨r, hr, hrr⟩ := hlot
        have hmem : r ∈ arrived.handling.removals := hhandling ▸ hr
        exact ⟨r, hmem, hrr⟩
      · rw [done_waiting (hdone _ hafter) hremovals' (hnotLate hnot), if_pos hany, hcarrier]
        refine congrArg _ (finish_idle _ (postEvent_noRunDue ?_ _ _ _ _))
        exact harrivedRun
      · rw [done_waiting (hdone _ hafter) hremovals' (hnotLate hnot), if_neg (Bool.eq_false_iff.mp hnone)]
        rfl
    case resetting =>
      intro r hr hretry hreset
      exact exec_unit (takeDone o.tag r) rfl ((takeDone_notMoved ho hr).trans (notMoved_of_resetting hretry hreset))
    case late =>
      intro r hr hretry hreset hlot hplace
      have hat : settleHome o.wafer cleared = cleared := settleHome_of_not_home (s := cleared) hw fun hhome => by
        rw [hhome.2.1] at hplace
        simp at hplace
      rw [hcarrier]
      refine done_waiting_late (t := cleared) ?_ hremovals hrun (w := w) hw hi hlot (w.location.isHandlers_iff.mpr hplace)
      rw [hstays r hr hretry hreset, hat]
    all_goals
      have hresolved : ∀ t : State, finish (if anyUnknown t = true then removed t
          else { ended .idle t with handling := { (ended .idle t).handling with runDue := true } }) =
          finish (if anyUnknown t = true then carrierHalt p t else wantPlan (removalsDone .idle t)) := fun t => by
        rw [hcarrier]
        rfl
    case pa =>
      intro hdst q set
      have hafter : afterArrival o arrived = set := by
        rw [afterArrival, hdst]
        have hstart := startPrealign_of_wafer harrived
        rw [paramNat_congr (moveWafer_cmd _ _ _)] at hstart
        exact hstart
      have hset : set.handling.removals = (run, p) :: rest ∧ NoRunDue set ∧
          ∃ x, waferAt set o.wafer = some x ∧ x.run = w.run ∧ x.location = .pa := by
        change (if w.phase = .toPA then _ else arrived : State).handling.removals = _ ∧
          NoRunDue (if w.phase = .toPA then _ else arrived) ∧
          ∃ x, waferAt (if w.phase = .toPA then _ else arrived) o.wafer = some x ∧ _
        split
        · refine ⟨hremovals', harrivedRun, { w with location := o.dst, phase := .prealigning }, ?_, rfl, hdst⟩
          have hq : waferAt q o.wafer = some { w with location := o.dst, phase := .prealigning } := by
            rw [waferAt_updWafer_same, harrived, Option.map_some]
          exact hq
        · exact ⟨hremovals', harrivedRun, _, harrived, rfl, hdst⟩
      obtain ⟨hsetRemovals, hsetRun, x, hx, hxrun, hxpa⟩ := hset
      have hsame : waitsForLot set x.run ↔ ofLot := by
        rw [waitsForLot, hsetRemovals, hxrun, ← hremovals]
      refine ⟨fun hlot => ?_, fun hnot => ?_⟩
      · rw [hcarrier]
        exact done_waiting_late (hdone _ hafter) hsetRemovals hsetRun hx hi (hsame.mpr hlot) (by rw [hxpa]; rfl)
      · refine (done_waiting (hdone _ hafter) hsetRemovals (removeLate_of_not_late fun y hy hlate => ?_)).trans
          (congrArg _ (hresolved set).symm)
        obtain rfl := Option.some.inj (hx.symm.trans hy)
        exact hnot (hsame.mp hlate.1)
    case slot =>
      intro hdst
      refine (done_waiting (hdone _ (by rw [afterArrival, hdst])) (hhome _ hremovals')
        (removeLate_of_not_late fun y hy hlate => ?_)).trans (congrArg _ (hresolved _).symm)
      obtain ⟨z, hz, hlocation, -⟩ := settleHome_wafer hy
      obtain rfl := Option.some.inj (harrived.symm.trans hz)
      rw [hlocation, hdst] at hlate
      exact Bool.false_ne_true hlate.2
    case stage =>
      intro hdst shown
      have hshown : shown.handling = arrived.handling := postEvent_handling _ _ _ _ _
      have hat : waferAt shown o.wafer = some { w with location := o.dst } :=
        (waferAt_congr (postEvent_wafers _ _ _ _ _) _).trans harrived
      have hafter : afterArrival o arrived = if w.phase = .prealigned then startAlign o.wafer shown else shown := by
        rw [afterArrival, hdst]
        have harrive := arriveOnStage_of_wafer harrived
        exact harrive
      refine (done_waiting (run := run) (rest := rest) (hdone _ hafter) ?_
        (removeLate_of_not_late fun y hy hlate => ?_)).trans (congrArg _ (hresolved _).symm)
      · have hr : shown.handling.removals = (run, p) :: rest := (congrArg (·.removals) hshown).trans hremovals'
        split
        · rw [startAlign_handling, hr]
        · exact hr
      · have hlocation : y.location = .stage := by
          split at hy
          · rw [startAlign, hat] at hy
            simp only at hy
            rw [waferAt_congr (postEvent_wafers _ _ _ _ _), waferAt_updWafer_same, hat, Option.map_some,
              Option.some.injEq] at hy
            rw [← hy]
            exact hdst
          · rw [hat, Option.some.injEq] at hy
            rw [← hy]
            exact hdst
        rw [hlocation] at hlate
        exact Bool.false_ne_true hlate.2
    case retried => exact fun r hr hretry => hlostEnd r 3 ((takeDone_notMoved ho hr).trans (notMoved_of_retry hretry))
    case stays =>
      intro r hr hretry hreset hstill
      refine (done_waiting (hstays r hr hretry hreset) (hhome cleared hremovals)
        (removeLate_of_not_late fun y hy hlate => ?_)).trans (congrArg _ (hresolved _).symm)
      obtain ⟨z, hz, hlocation, hzrun, -⟩ := settleHome_wafer hy
      obtain rfl : w = z := Option.some.inj (hw.symm.trans hz)
      rcases hstill with hnot | hplace
      · obtain ⟨q, hq, hqr⟩ := hlate.1
        refine hnot ⟨q, ?_, hqr.trans hzrun⟩
        have hmem : q ∈ cleared.handling.removals := (settleHome_units cleared o.wafer).2.2.2 ▸ hq
        exact hmem
      · rw [hlocation] at hlate
        rcases hplace with hplace | hplace | hplace <;> rw [hplace] at hlate <;> exact Bool.false_ne_true hlate.2

end Sys2Proof.Machine
end

-- ==== Proofs: the planner's rules and its run at the end of a step (R35 to R39) ====
section
namespace Sys2Proof.Machine

/-! ## What the rules of the planner look at -/

/-- The wafer at a place is `i`, and is in a phase. -/
def StandsIn (s : State) (l : Location) (p : Phase) (i : Nat) : Prop :=
  waferIn s l = some i ∧ ∃ w, waferAt s i = some w ∧ w.phase = p

/-- No record is at a place. -/
def NoneAt (s : State) (l : Location) : Prop := ∀ i w, i < 50 → waferAt s i = some w → w.location ≠ l

/-- A lot may be fed (R6). -/
def Feeds (s : State) (l : Lot) : Prop :=
  l.state = .active ∨ (l.state = .pending ∧ ∀ a, s.lots.active = some a → a.state ≠ .held)

/-- The lot of a wafer may be fed. -/
def IsFed (s : State) (i : Nat) : Prop := ∃ w l, waferAt s i = some w ∧ lotOfRun s w.run = some l ∧ Feeds s l

/-- A WAITING wafer of a lot. -/
def WaitsIn (s : State) (l : Lot) (i : Nat) : Prop :=
  i < 50 ∧ ∃ w, waferAt s i = some w ∧ w.run = l.run ∧ w.phase = .waiting

/-- The wafer that rule 9 feeds (R37). -/
def IsNextFed (s : State) (i : Nat) : Prop :=
  ∃ l, Feeds s l ∧ WaitsIn s l i ∧ (∀ j, j < i → ¬ WaitsIn s l j) ∧
    (s.lots.active = some l ∨ (s.lots.second = some l ∧
      ∀ a, s.lots.active = some a → ¬ (Feeds s a ∧ ∃ j, WaitsIn s a j)))

/-- A return on an arm, with its home port in a given state. -/
def ReturnOn (s : State) (opened : Bool) (a : Arm) (i : Nat) : Prop :=
  StandsIn s a.location .reviewDone i ∧ portOpen s (homePort i) = opened

theorem noneAt_iff (s : State) (l : Location) : isEmptyPlace s l = true ↔ NoneAt s l := isEmptyPlace_iff s l

theorem waferInPhase_eq_some_iff (s : State) (l : Location) (p : Phase) (i : Nat) :
    waferInPhase s l p = some i ↔ StandsIn s l p i := by
  rw [waferInPhase, Option.filter_eq_some_iff, Option.any_eq_true]
  simp only [StandsIn, beq_iff_eq]

theorem mayBeFed_iff (s : State) (l : Lot) : mayBeFed s l = true ↔ Feeds s l := by
  unfold Feeds
  cases hs : l.state <;> simp [mayBeFed, hs, Option.all_eq_true]

theorem lotMayBeFed_iff (s : State) (i : Nat) : lotMayBeFed s i = true ↔ IsFed s i := by
  rw [lotMayBeFed, lotOfWafer, Option.any_eq_true]
  constructor
  · rintro ⟨l, hl, hfeeds⟩
    obtain ⟨w, hw, hrun⟩ := Option.bind_eq_some_iff.mp hl
    exact ⟨w, l, hw, hrun, (mayBeFed_iff s l).mp hfeeds⟩
  · rintro ⟨w, l, hw, hrun, hfeeds⟩
    exact ⟨l, Option.bind_eq_some_iff.mpr ⟨w, hw, hrun⟩, (mayBeFed_iff s l).mpr hfeeds⟩

theorem returnOn_eq_some_iff (s : State) (a : Arm) (opened : Bool) (i : Nat) :
    returnOn s a opened = some i ↔ ReturnOn s opened a i := by
  rw [returnOn, Option.filter_eq_some_iff, waferInPhase_eq_some_iff, beq_iff_eq, ReturnOn]

theorem armFree_iff (s : State) (a : Arm) : armFree s a = true ↔ NoneAt s a.location := noneAt_iff s a.location

theorem bothArmsFree_iff (s : State) : bothArmsFree s = true ↔ NoneAt s .armU ∧ NoneAt s .armL := by
  rw [bothArmsFree, Bool.and_eq_true, armFree_iff, armFree_iff]
  exact Iff.rfl

/-- The arm that is preferred where it is free, and else the other one (R38). -/
theorem preferredArm_iff (s : State) {first other : Arm} (hne : first ≠ other) (hall : ∀ a, a = first ∨ a = other)
    (a : Arm) :
    (if armFree s first then some first else if armFree s other then some other else none) = some a ↔
      NoneAt s a.location ∧ (a = other → ¬ NoneAt s first.location) := by
  rw [← armFree_iff, ← armFree_iff]
  rcases hall a with rfl | rfl
  · by_cases hfree : armFree s a <;> simp [hfree, hne]
    exact fun _ h => hne h.symm
  · by_cases hfree : armFree s first <;> simp [hfree, hne]

theorem homeArm_eq_some_iff (s : State) (a : Arm) :
    homeArm s = some a ↔ NoneAt s a.location ∧ (a = .l → ¬ NoneAt s .armU) :=
  preferredArm_iff s (first := .u) (other := .l) nofun (fun a => by cases a <;> simp) a

theorem clearArm_eq_some_iff (s : State) (a : Arm) :
    clearArm s = some a ↔ NoneAt s a.location ∧ (a = .u → ¬ NoneAt s .armL) :=
  preferredArm_iff s (first := .l) (other := .u) nofun (fun a => by cases a <;> simp) a

theorem nextWaiting_eq_some_iff (s : State) (l : Lot) (i : Nat) :
    nextWaiting s l = some i ↔ WaitsIn s l i ∧ ∀ j, j < i → ¬ WaitsIn s l j := by
  have hwaits : ∀ j, WaitsIn s l j ↔
      j < 50 ∧ ((waferAt s j).any fun w => w.run == l.run && w.phase == .waiting) = true := fun j => by
    simp only [WaitsIn, Option.any_eq_true, Bool.and_eq_true, beq_iff_eq]
  rw [nextWaiting, waferIndices, List.find?_range_eq_some, List.mem_range, hwaits]
  constructor
  · rintro ⟨hany, hi, hbefore⟩
    refine ⟨⟨hi, hany⟩, fun j hj hwait => ?_⟩
    exact absurd (hbefore j hj) (by rw [((hwaits j).mp hwait).2]; nofun)
  · rintro ⟨⟨hi, hany⟩, hbefore⟩
    refine ⟨hany, hi, fun j hj => ?_⟩
    rw [Bool.not_eq_true', Bool.eq_false_iff]
    exact fun hany => hbefore j hj ((hwaits j).mpr ⟨Nat.lt_trans hj hi, hany⟩)

theorem nextWaiting_eq_none_iff (s : State) (l : Lot) : nextWaiting s l = none ↔ ¬ ∃ j, WaitsIn s l j := by
  rw [nextWaiting, waferIndices, List.find?_eq_none]
  simp only [WaitsIn, List.mem_range, Option.any_eq_true, Bool.and_eq_true, beq_iff_eq, not_exists, not_and]
  exact Iff.rfl

/-- The wafer that rule 9 feeds from a lot. -/
def feedOf (s : State) (l : Lot) : Option Nat := if mayBeFed s l then nextWaiting s l else none

theorem feedOf_eq_some_iff (s : State) (l : Lot) (i : Nat) :
    feedOf s l = some i ↔ Feeds s l ∧ WaitsIn s l i ∧ ∀ j, j < i → ¬ WaitsIn s l j := by
  rw [feedOf, Option.ite_none_right_eq_some, mayBeFed_iff, nextWaiting_eq_some_iff]

theorem feedOf_eq_none_iff (s : State) (l : Lot) : feedOf s l = none ↔ ¬ (Feeds s l ∧ ∃ j, WaitsIn s l j) := by
  rw [feedOf, ite_eq_right_iff, mayBeFed_iff, nextWaiting_eq_none_iff, not_and]

/-- The lot that is fed is the active one, or the pending one where the active one has nothing to feed. -/
theorem feedWafer_eq_some_iff (s : State) (i : Nat) : feedWafer s = some i ↔ IsNextFed s i := by
  have hlots : feedWafer s = (s.lots.active.bind (feedOf s)).or (s.lots.second.bind (feedOf s)) := by
    change (s.lots.active.toList ++ s.lots.second.toList).findSome? (feedOf s) = _
    rw [List.findSome?_append]
    cases s.lots.active <;> cases s.lots.second <;> simp
  rw [hlots, Option.or_eq_some_iff, Option.bind_eq_none_iff, Option.bind_eq_some_iff, Option.bind_eq_some_iff]
  simp only [feedOf_eq_some_iff, feedOf_eq_none_iff]
  constructor
  · rintro (⟨l, hl, hfeeds, hwaits, hfirst⟩ | ⟨hactive, l, hl, hfeeds, hwaits, hfirst⟩)
    · exact ⟨l, hfeeds, hwaits, hfirst, .inl hl⟩
    · exact ⟨l, hfeeds, hwaits, hfirst, .inr ⟨hl, hactive⟩⟩
  · rintro ⟨l, hfeeds, hwaits, hfirst, hl | ⟨hl, hactive⟩⟩
    · exact .inl ⟨l, hl, hfeeds, hwaits, hfirst⟩
    · exact .inr ⟨hactive, l, hl, hfeeds, hwaits, hfirst⟩

/-! ## The rules -/

/-- A rule that looks at ARM_U first. -/
theorem upperFirst_iff {f : Arm → Option Nat} {g : Arm → Nat → Plan} {p : Plan} :
    ((f .u).map (g .u)).or ((f .l).map (g .l)) = some p ↔
      ∃ a i, f a = some i ∧ (a = .l → ∀ j, f .u ≠ some j) ∧ p = g a i := by
  constructor
  · cases hu : f .u with
    | some i => exact fun h => ⟨.u, i, hu, nofun, (Option.some.inj h).symm⟩
    | none =>
      intro h
      obtain ⟨i, hl, rfl⟩ := Option.map_eq_some_iff.mp h
      exact ⟨.l, i, hl, fun _ j => nofun, rfl⟩
  · rintro ⟨a, i, ha, hfirst, rfl⟩
    cases a with
    | u => rw [ha]; rfl
    | l =>
      rw [Option.eq_none_iff_forall_ne_some.mpr (hfirst rfl), ha]
      rfl

theorem rule1_iff (s : State) (p : Plan) : rule1 s = some p ↔
    ∃ a i, ReturnOn s true a i ∧ (a = .l → ∀ j, ¬ ReturnOn s true .u j) ∧ p = ⟨.place, i, a.location, .slot, some a⟩ := by
  simp only [rule1, upperFirst_iff (f := fun a => returnOn s a true) (g := fun a => placeFrom a .slot), ne_eq,
    returnOn_eq_some_iff, placeFrom]

theorem rule2_iff (s : State) (p : Plan) : rule2 s = some p ↔
    ∃ i, StandsIn s .stage .reviewDone i ∧ NoneAt s .ll ∧ p = ⟨.transfer, i, .stage, .ll, none⟩ := by
  rw [rule2, Option.ite_none_right_eq_some, noneAt_iff, Option.map_eq_some_iff]
  simp only [waferInPhase_eq_some_iff, eq_comm (b := p)]
  exact ⟨fun ⟨hll, i, hi, hp⟩ => ⟨i, hi, hll, hp⟩, fun ⟨i, hi, hll, hp⟩ => ⟨hll, i, hi, hp⟩⟩

theorem filter_waferInPhase_iff (s : State) (l : Location) (p : Phase) (i : Nat) :
    (waferInPhase s l p).filter (lotMayBeFed s) = some i ↔ StandsIn s l p i ∧ IsFed s i := by
  rw [Option.filter_eq_some_iff, waferInPhase_eq_some_iff, lotMayBeFed_iff]

theorem rule3_iff (s : State) (p : Plan) : rule3 s = some p ↔
    ∃ i, NoneAt s .stage ∧ StandsIn s .ll .prealigned i ∧ IsFed s i ∧ s.guard.state ≠ .hardTripped ∧
      p = ⟨.transfer, i, .ll, .stage, none⟩ := by
  rw [rule3, Option.ite_none_right_eq_some, Bool.and_eq_true, noneAt_iff, bne_iff_ne, Option.map_eq_some_iff]
  simp only [filter_waferInPhase_iff, eq_comm (b := p)]
  exact ⟨fun ⟨⟨hstage, hguard⟩, i, ⟨hi, hfed⟩, hp⟩ => ⟨i, hstage, hi, hfed, hguard, hp⟩,
    fun ⟨i, hstage, hi, hfed, hguard, hp⟩ => ⟨⟨hstage, hguard⟩, i, ⟨hi, hfed⟩, hp⟩⟩

/-- A REVIEW_DONE wafer is picked where it stands, to the arm for wafers going home. -/
theorem pickHome_iff (s : State) (src : Location) (p : Plan) :
    (match waferInPhase s src .reviewDone, homeArm s with
      | some i, some a => some (pickTo a src i)
      | _, _ => none) = some p ↔
    ∃ a i, StandsIn s src .reviewDone i ∧ (NoneAt s a.location ∧ (a = .l → ¬ NoneAt s .armU)) ∧
      p = ⟨.pick, i, src, a.location, some a⟩ := by
  simp only [← homeArm_eq_some_iff, ← waferInPhase_eq_some_iff]
  cases waferInPhase s src .reviewDone <;> cases homeArm s <;> simp [pickTo, eq_comm]

theorem rule4_iff (s : State) (p : Plan) : rule4 s = some p ↔
    ∃ a i, StandsIn s .ll .reviewDone i ∧ (NoneAt s a.location ∧ (a = .l → ¬ NoneAt s .armU)) ∧
      p = ⟨.pick, i, .ll, a.location, some a⟩ := pickHome_iff s .ll p

theorem rule5_iff (s : State) (p : Plan) : rule5 s = some p ↔
    ∃ a i, StandsIn s .pa .reviewDone i ∧ (NoneAt s a.location ∧ (a = .l → ¬ NoneAt s .armU)) ∧
      p = ⟨.pick, i, .pa, a.location, some a⟩ := pickHome_iff s .pa p

theorem rule6_iff (s : State) (p : Plan) : rule6 s = some p ↔
    ∃ a i, StandsIn s a.location .prealigned i ∧ IsFed s i ∧
      (a = .l → ∀ j, ¬ (StandsIn s .armU .prealigned j ∧ IsFed s j)) ∧ NoneAt s .ll ∧ NoneAt s .stage ∧
      p = ⟨.place, i, a.location, .ll, some a⟩ := by
  rw [rule6, Option.ite_none_right_eq_some, Bool.and_eq_true, noneAt_iff, noneAt_iff]
  refine (and_congr_right' (upperFirst_iff (f := fun a => (waferInPhase s a.location .prealigned).filter (lotMayBeFed s))
    (g := fun a => placeFrom a .ll))).trans ?_
  simp only [ne_eq, filter_waferInPhase_iff, placeFrom]
  exact ⟨fun ⟨⟨hll, hstage⟩, a, i, ⟨hi, hfed⟩, hfirst, hp⟩ => ⟨a, i, hi, hfed, hfirst, hll, hstage, hp⟩,
    fun ⟨a, i, hi, hfed, hfirst, hll, hstage, hp⟩ => ⟨⟨hll, hstage⟩, a, i, ⟨hi, hfed⟩, hfirst, hp⟩⟩

theorem rule7_iff (s : State) (p : Plan) : rule7 s = some p ↔
    ∃ i, StandsIn s .pa .prealigned i ∧ IsFed s i ∧ NoneAt s .armU ∧ NoneAt s .armL ∧
      (NoneAt s .ll ∨ ∃ j, StandsIn s .ll .reviewDone j) ∧ p = ⟨.pick, i, .pa, .armL, some .l⟩ := by
  rw [rule7, Option.ite_none_right_eq_some, Bool.and_eq_true, bothArmsFree_iff, Bool.or_eq_true, noneAt_iff,
    Option.isSome_iff_exists, Option.map_eq_some_iff]
  simp only [filter_waferInPhase_iff, waferInPhase_eq_some_iff, eq_comm (b := p)]
  exact ⟨fun ⟨⟨⟨hu, hl⟩, hll⟩, i, ⟨hi, hfed⟩, hp⟩ => ⟨i, hi, hfed, hu, hl, hll, hp⟩,
    fun ⟨i, hi, hfed, hu, hl, hll, hp⟩ => ⟨⟨⟨hu, hl⟩, hll⟩, i, ⟨hi, hfed⟩, hp⟩⟩

theorem rule8_iff (s : State) (p : Plan) : rule8 s = some p ↔
    ∃ a i, StandsIn s a.location .toPA i ∧ (a = .l → ∀ j, ¬ StandsIn s .armU .toPA j) ∧ NoneAt s .pa ∧
      p = ⟨.place, i, a.location, .pa, some a⟩ := by
  rw [rule8, Option.ite_none_right_eq_some, noneAt_iff]
  refine (and_congr_right' (upperFirst_iff (f := fun a => waferInPhase s a.location .toPA)
    (g := fun a => placeFrom a .pa))).trans ?_
  simp only [ne_eq, waferInPhase_eq_some_iff, placeFrom]
  exact ⟨fun ⟨hpa, a, i, hi, hfirst, hp⟩ => ⟨a, i, hi, hfirst, hpa, hp⟩,
    fun ⟨a, i, hi, hfirst, hpa, hp⟩ => ⟨hpa, a, i, hi, hfirst, hp⟩⟩

theorem rule9_iff (s : State) (p : Plan) : rule9 s = some p ↔
    ∃ i, NoneAt s .pa ∧ NoneAt s .armU ∧ NoneAt s .armL ∧ betweenCount s < 2 ∧ IsNextFed s i ∧
      portOpen s (homePort i) = true ∧ p = ⟨.pick, i, .slot, .armL, some .l⟩ := by
  rw [rule9, Option.ite_none_right_eq_some, Bool.and_eq_true, Bool.and_eq_true, noneAt_iff, bothArmsFree_iff,
    decide_eq_true_eq, Option.map_eq_some_iff]
  simp only [Option.filter_eq_some_iff, feedWafer_eq_some_iff, eq_comm (b := p)]
  exact ⟨fun ⟨⟨⟨hpa, hu, hl⟩, hcount⟩, i, ⟨hi, hopen⟩, hp⟩ => ⟨i, hpa, hu, hl, hcount, hi, hopen, hp⟩,
    fun ⟨i, hpa, hu, hl, hcount, hi, hopen, hp⟩ => ⟨⟨⟨hpa, hu, hl⟩, hcount⟩, i, ⟨hi, hopen⟩, hp⟩⟩

theorem rule10_iff (s : State) (p : Plan) : rule10 s = some p ↔
    ∃ a i, (∃ j, StandsIn s .stage .reviewDone j) ∧ StandsIn s .ll .prealigned i ∧
      (NoneAt s a.location ∧ (a = .u → ¬ NoneAt s .armL)) ∧ p = ⟨.pick, i, .ll, a.location, some a⟩ := by
  simp only [← clearArm_eq_some_iff, ← waferInPhase_eq_some_iff, rule10]
  cases waferInPhase s .stage .reviewDone <;> cases waferInPhase s .ll .prealigned <;> cases clearArm s <;>
    simp [pickTo, eq_comm]

/-! ## The order chosen -/

/-- The rule of a number (R36). -/
def ruleAt (s : State) : Nat → Option Plan
  | 1 => rule1 s | 2 => rule2 s | 3 => rule3 s | 4 => rule4 s | 5 => rule5 s
  | 6 => rule6 s | 7 => rule7 s | 8 => rule8 s | 9 => rule9 s | 10 => rule10 s
  | _ => none

theorem findSome?_cons_or {α β : Type} (f : α → Option β) (a : α) (l : List α) :
    (a :: l).findSome? f = (f a).or (l.findSome? f) := by
  rw [List.findSome?_cons]
  cases f a <;> rfl

theorem findSome?_range_eq_some_iff {β : Type} (f : Nat → Option β) (n : Nat) (b : β) :
    (List.range n).findSome? f = some b ↔ ∃ k, k < n ∧ f k = some b ∧ ∀ m, m < k → f m = none := by
  induction n with
  | zero => simp
  | succ n ih =>
    rw [List.range_succ, List.findSome?_append, Option.or_eq_some_iff, ih, List.findSome?_eq_none_iff, findSome?_cons_or,
      List.findSome?_nil, Option.or_none]
    simp only [List.mem_range]
    constructor
    · rintro (⟨k, hk, hb, hbefore⟩ | ⟨hnone, hb⟩)
      · exact ⟨k, Nat.lt_succ_of_lt hk, hb, hbefore⟩
      · exact ⟨n, Nat.lt_succ_self n, hb, hnone⟩
    · rintro ⟨k, hk, hb, hbefore⟩
      rcases Nat.lt_succ_iff_lt_or_eq.mp hk with hk | rfl
      · exact .inl ⟨k, hk, hb, hbefore⟩
      · exact .inr ⟨hbefore, hb⟩

theorem choosePlan_eq_findSome? (s : State) : choosePlan s = (List.range 11).findSome? (ruleAt s) := by
  rw [show List.range 11 = [0, 1, 2, 3, 4, 5, 6, 7, 8, 9, 10] from rfl]
  simp only [findSome?_cons_or, List.findSome?_nil, Option.or_none]
  rfl

theorem ruleAt_of_ge (s : State) {n : Nat} (h : 11 ≤ n) : ruleAt s n = none := by
  obtain ⟨k, rfl⟩ := Nat.exists_eq_add_of_le' h
  rfl

/-- The first rule of the list that applies gives the order (R36). -/
theorem choosePlan_eq_some_iff (s : State) (p : Plan) :
    choosePlan s = some p ↔ ∃ n, ruleAt s n = some p ∧ ∀ m, m < n → ruleAt s m = none := by
  rw [choosePlan_eq_findSome?, findSome?_range_eq_some_iff]
  refine exists_congr fun n => ⟨fun h => h.2, fun h => ⟨Nat.lt_of_not_le fun hge => ?_, h⟩⟩
  exact absurd h.1 (by rw [ruleAt_of_ge s hge]; nofun)

theorem choosePlan_eq_none_iff (s : State) : choosePlan s = none ↔ ∀ n, ruleAt s n = none := by
  rw [choosePlan_eq_findSome?, List.findSome?_eq_none_iff]
  refine ⟨fun h n => ?_, fun h n _ => h n⟩
  rcases Nat.lt_or_ge n 11 with hn | hn
  · exact h n (List.mem_range.mpr hn)
  · exact ruleAt_of_ge s hn

/-! ## The run at the end of a step -/

theorem returnHeldBack_iff (s : State) : returnHeldBack s = true ↔ ∃ a i, ReturnOn s false a i := by
  rw [returnHeldBack, Bool.or_eq_true, Option.isSome_iff_exists, Option.isSome_iff_exists]
  simp only [returnOn_eq_some_iff]
  constructor
  · rintro (⟨i, hi⟩ | ⟨i, hi⟩)
    · exact ⟨.u, i, hi⟩
    · exact ⟨.l, i, hi⟩
  · rintro ⟨a, i, hi⟩
    cases a with
    | u => exact .inl ⟨i, hi⟩
    | l => exact .inr ⟨i, hi⟩

/-- A planner run is made at the end of the step (R35). -/
def RunsPlanner (s : State) : Prop :=
  s.handling.runDue = true ∧ (s.handling.state = .idle ∨ s.handling.state = .portWait) ∧ s.cmd.resetting = false

theorem finish_of_not_runs {s : State} (h : ¬ RunsPlanner s) :
    finish s = { s with handling := { s.handling with runDue := false } } := by
  rw [finish]
  by_cases hdue : s.handling.runDue = true
  · have hmay : ¬ mayPlan { s with handling := { s.handling with runDue := false } } = true := fun hmay =>
      h ⟨hdue, (mayPlan_iff _).mp hmay⟩
    rw [if_pos hdue, runPlanner, if_neg hmay]
  · have hnot : s.handling.runDue = false := Bool.eq_false_iff.mpr hdue
    rw [if_neg hdue, ← hnot]

/-- The state after a planner run that chooses no order (R39). -/
def noOrder (s : State) (h : HandlingState) : State := { s with handling := { s.handling with runDue := false, state := h } }

theorem finish_of_runs {s : State} (h : RunsPlanner s) :
    finish s = runPlanner { s with handling := { s.handling with runDue := false } } := if_pos h.1

theorem finish_of_choosePlan_some {s : State} (h : RunsPlanner s) {p : Plan} (hp : choosePlan s = some p) :
    finish s = issue p { s with handling := { s.handling with runDue := false } } := by
  have hmay : mayPlan { s with handling := { s.handling with runDue := false } } = true := (mayPlan_iff _).mpr h.2
  have hplan : choosePlan { s with handling := { s.handling with runDue := false } } = some p := hp
  rw [finish_of_runs h, runPlanner, if_pos hmay, hplan]

theorem finish_of_choosePlan_none {s : State} (h : RunsPlanner s) (hp : choosePlan s = none) :
    finish s = noOrder s (if returnHeldBack s then .portWait else .idle) := by
  have hmay : mayPlan { s with handling := { s.handling with runDue := false } } = true := (mayPlan_iff _).mpr h.2
  have hplan : choosePlan { s with handling := { s.handling with runDue := false } } = none := hp
  rw [finish_of_runs h, runPlanner, if_pos hmay, hplan]
  rfl

/-- Settles O6: each rule of the list is an `↔`, and the order chosen is that of the first that applies. -/
theorem finishFrame : Obligations.FinishFrame := by
  intro s on empty arm opened home homeward aside feeds fed waits between next applies may heldBack h
  have happlies : ∀ n p, applies n p ↔ ruleAt s n = some p := by
    intro n p
    match n with
    | 0 => exact ⟨False.elim, nofun⟩
    | 1 => exact (rule1_iff s p).symm
    | 2 => exact (rule2_iff s p).symm
    | 3 => exact (rule3_iff s p).symm
    | 4 => exact (rule4_iff s p).symm
    | 5 => exact (rule5_iff s p).symm
    | 6 => exact (rule6_iff s p).symm
    | 7 => exact (rule7_iff s p).symm
    | 8 => exact (rule8_iff s p).symm
    | 9 => exact (rule9_iff s p).symm
    | 10 => exact (rule10_iff s p).symm
    | n + 11 => exact ⟨False.elim, nofun⟩
  have hnone : ∀ n, ruleAt s n = none ↔ ∀ q, ¬ applies n q := fun n => by
    simp only [happlies, Option.eq_none_iff_forall_ne_some, ne_eq]
  have hheld : returnHeldBack s = true ↔ heldBack := returnHeldBack_iff s
  refine ⟨fun p => ?_, ?_, finish_of_not_runs, fun hmay hplan hback => ?_, fun hmay hplan hback => ?_,
    fun p hmay hplan => ?_⟩
  · simp only [choosePlan_eq_some_iff, hnone, happlies]
    exact exists_congr fun n => and_congr_right' ⟨fun hall m q hm => hall m hm q, fun hall m hm q => hall m q hm⟩
  · simp only [choosePlan_eq_none_iff, hnone]
  · rw [finish_of_choosePlan_none hmay hplan, if_pos (hheld.mpr hback)]
    rfl
  · rw [finish_of_choosePlan_none hmay hplan, if_neg fun hb => hback (hheld.mp hb)]
    rfl
  · intro tag
    rw [finish_of_choosePlan_some hmay hplan, issue, feedPhase]
    have htimeout : orderTimeout s p.kind = if p.kind = .transfer then paramNat s 1 else paramNat s 0 := by
      cases p.kind <;> rfl
    rw [← htimeout]
    by_cases hslot : p.src = .slot
    · rw [if_pos hslot, if_pos hslot]
      rfl
    · rw [if_neg hslot, if_neg hslot]
      rfl

end Sys2Proof.Machine
end

-- ==== Proofs: LOT_START, its layout read and what it makes (R2 to R5) ====
section
namespace Sys2Proof.Machine

theorem startRefused_iff {s : State} (hm : s.path.mode = .mapped) :
    startRefused s = true ↔ mapComplete s = false ∨ s.path.reloadPending = true := by
  rw [startRefused, hm, Bool.or_eq_true, Bool.or_eq_true, Bool.not_eq_true']
  exact or_congr_left (or_iff_right (by decide))

/-- With a queue place free and no earlier producer, the layout read is queued (R2, R184). -/
theorem queueLayoutRead_of_zone {s : State} {z : Zone} (hz : zoneOf s .layout = some z)
    (hmay : mayTakePlace s .layout = true) (a3 : Word) :
    queueLayoutRead a3 s = pushJob (layoutJob z a3) (endWait .layout s) := by
  rw [queueLayoutRead, hz]
  exact if_pos hmay

theorem filter_ne_producer (p : Producer) (ps : List Producer) :
    ps.filter (fun q => decide (q ≠ p)) = ps.filter fun q => q != p :=
  List.filter_congr fun q _ => by cases q <;> cases p <;> rfl

/-- The layout read is queued and nothing else changes, where no word and no producer waits (R2, R184). -/
theorem queueLayoutRead_of_free {s : State} {z : Zone} (hz : zoneOf s .layout = some z) (hnone : s.path.upWait = [])
    (hwaiters : s.path.waiters = []) (hdepth : depth s < 12) (a3 : Word) :
    queueLayoutRead a3 s = { s with path := { s.path with jobs := s.path.jobs ++ [layoutJob z a3] } } := by
  have hmay : mayTakePlace s .layout = true := (mayTakePlace_iff _ _).mpr ⟨Nat.lt_trans hdepth (by decide), .inl hwaiters⟩
  have hend : endWait .layout s = s := by
    rw [endWait, hwaiters, List.filter_nil, ← hwaiters]
  rw [queueLayoutRead_of_zone hz hmay, hend]
  exact pushJob_free _ _ hnone hwaiters (Nat.lt_trans hdepth (by decide))

/-- A LOT_START that passes its first test, with the bus free: it is in progress, and its layout read is queued. -/
theorem cmdLotStart_of_zone {s : State} (hok : ¬ startRefused s = true) {z : Zone} (hz : zoneOf s .layout = some z)
    (hnone : s.path.upWait = []) (hwaiters : s.path.waiters = []) (hdepth : depth s < 12) :
    cmdLotStart s = { s with
      cmd := { s.cmd with code := .none, lotStart := some ⟨arg s 0, arg s 1, arg s 2, arg s 3⟩ }
      path := { s.path with jobs := s.path.jobs ++ [layoutJob z (arg s 3)] } } :=
  (if_neg hok).trans (queueLayoutRead_of_free (s := answer .none (openLotStart s)) hz hnone hwaiters hdepth _)

/-- Settles O11. -/
theorem lotStart : Obligations.LotStart := by
  unfold Obligations.LotStart
  intro job
  refine ⟨fun w s h => ?_, fun r z s hrun hstart hz hhead hroom => ?_, fun s hrun hnot => ?_⟩
  · intro u a
    refine ⟨fun hrefused => ?_, fun z hcomplete hpending hz => ?_⟩
    · refine exec_command_of_handling h (s := s) 1 rfl (by decide) (by decide) ?_ rfl
      exact if_pos ((startRefused_iff (s := commandSeen 1 w s) h.mapped).mpr hrefused)
    · refine exec_command_of_handling h (s := s) 1 rfl (by decide) (by decide) (cmdLotStart_of_zone
        (s := commandSeen 1 w s) (fun hrefused => ?_) hz h.opened.bus.noneWaits h.opened.bus.noProducer
        h.opened.bus.shallow) rfl
      rcases (startRefused_iff (s := commandSeen 1 w s) h.mapped).mp hrefused with hc | hp
      · exact Bool.false_ne_true (hc.symm.trans hcomplete)
      · exact Bool.false_ne_true (hpending.symm.trans hp)
  · refine exec_unit_idle queueWaitingLayout rfl ?_ ?_
    · have hmem : Producer.layout ∈ s.path.waiters := List.mem_of_mem_head? hhead
      rw [queueWaitingLayout, hstart]
      refine (if_pos hmem).trans ((queueLayoutRead_of_zone hz ((mayTakePlace_iff _ _).mpr ⟨hroom, .inr hhead⟩) _).trans ?_)
      rw [endWait, filter_ne_producer]
      rfl
    · exact hrun
  · refine exec_unit_idle queueWaitingLayout rfl ?_ hrun
    unfold queueWaitingLayout
    cases s.cmd.lotStart with
    | none => rfl
    | some r => exact if_neg hnot

/-! ## The completion of the layout read -/

theorem portOfArg_eq (a1 : Word) :
    portOfArg a1 = if a1 = 1 then some .one else if a1 = 2 then some .two else none := rfl

theorem readyMap_eq_some_iff (s : State) (p : Port) (m : BitVec 25) : readyMap s p = some m ↔
    (portState s p).debounced = ⟨true, true⟩ ∧ (portState s p).slotMap = some m := by
  rw [readyMap, Option.ite_none_right_eq_some, Bool.and_eq_true]
  obtain ⟨present, opened⟩ := (portState s p).debounced
  simp

theorem within_iff (lo hi z : Int) : within lo hi z = true ↔ lo ≤ z ∧ z ≤ hi := by
  rw [within, Bool.and_eq_true, decide_eq_true_eq, decide_eq_true_eq]

theorem layoutValid_iff (a3 : Word) (l : Layout) : layoutValid a3 l = true ↔ a3.toNat ≤ 15 ∧
    (1000000 ≤ l.pitch.x ∧ l.pitch.x ≤ 60000000) ∧ (1000000 ≤ l.pitch.y ∧ l.pitch.y ≤ 60000000) ∧
    (-160000000 ≤ l.origin.x ∧ l.origin.x ≤ 160000000) ∧ (-160000000 ≤ l.origin.y ∧ l.origin.y ≤ 160000000) := by
  simp only [layoutValid, Bool.and_eq_true, decide_eq_true_eq, within_iff, and_assoc]

theorem lotOnPort_isSome_iff (s : State) (p : Port) :
    (lotOnPort s p).isSome = true ↔ ∃ k ∈ lotList s, usesPort s k p = true := List.find?_isSome

/-- The tests of R3 look at the lots, the wafer records and the ports. -/
theorem startTests_congr {s t : State} (hl : t.lots = s.lots) (hw : t.wafers = s.wafers)
    (hh : t.handling = s.handling) (r : LotRequest) (l : Layout) : startTests t r l = startTests s r l := by
  have hlist : lotList t = lotList s := congrArg (fun q => q.active.toList ++ q.second.toList) hl
  have hport : ∀ p, portState t p = portState s p := fun p => by
    cases p
    · exact congrArg (·.port1) hh
    · exact congrArg (·.port2) hh
  have hrecords : ∀ i, waferAt t i = waferAt s i := waferAt_congr hw
  have huses : ∀ k p, usesPort t k p = usesPort s k p := fun k p => by
    simp only [usesPort, wafersOfLot, hrecords]
  have hon : ∀ p, lotOnPort t p = lotOnPort s p := fun p => by
    simp only [lotOnPort, hlist, huses]
  have hready : ∀ p, readyMap t p = readyMap s p := fun p => by
    rw [readyMap, readyMap, hport]
  simp only [startTests, hl, hon, hready]

theorem startTests_queueFull {s : State} (h : s.lots.active.isSome = true ∧ s.lots.second.isSome = true)
    (r : LotRequest) (l : Layout) : startTests s r l = .error .lotQueueFull :=
  if_pos (Bool.and_eq_true_iff.mpr h)

section
variable {s : State} (hfull : ¬ (s.lots.active.isSome = true ∧ s.lots.second.isSome = true))
  (r : LotRequest) (l : Layout)
include hfull

theorem startTests_inUse {p : Port} (hp : portOfArg r.a1 = some p) (h : ∃ k ∈ lotList s, usesPort s k p = true) :
    startTests s r l = .error .portInUse := by
  rw [startTests, if_neg (mt Bool.and_eq_true_iff.mp hfull), hp]
  exact if_pos ((lotOnPort_isSome_iff s p).mpr h)

theorem startTests_of_free (hfree : ¬ ∃ p, portOfArg r.a1 = some p ∧ ∃ k ∈ lotList s, usesPort s k p = true)
    (hnone : ∀ p m, ¬ (portOfArg r.a1 = some p ∧ readyMap s p = some m)) :
    startTests s r l = .error .portNotReady := by
  rw [startTests, if_neg (mt Bool.and_eq_true_iff.mp hfull)]
  cases hp : portOfArg r.a1 with
  | none => rfl
  | some p =>
    have hmap : readyMap s p = none := Option.eq_none_iff_forall_ne_some.mpr fun m hm => hnone p m ⟨hp, hm⟩
    have hnot : ¬ (lotOnPort s p).isSome = true := fun hin => hfree ⟨p, hp, (lotOnPort_isSome_iff s p).mp hin⟩
    simp only [if_neg hnot, hmap]

theorem startTests_of_ready (hfree : ¬ ∃ p, portOfArg r.a1 = some p ∧ ∃ k ∈ lotList s, usesPort s k p = true)
    {p : Port} {m : BitVec 25} (hp : portOfArg r.a1 = some p) (hm : readyMap s p = some m) :
    startTests s r l = if layoutValid r.a3 l then .ok (p, m) else .error .layoutInvalid := by
  have hnot : ¬ (lotOnPort s p).isSome = true := fun hin => hfree ⟨p, hp, (lotOnPort_isSome_iff s p).mp hin⟩
  rw [startTests, if_neg (mt Bool.and_eq_true_iff.mp hfull), hp]
  simp only [if_neg hnot, hm]

end

theorem completeLayout_of_start {s : State} (hk : headKind s = some .layout) {r : LotRequest}
    (hr : s.cmd.lotStart = some r) : completeLayout s =
      decideStart r (.ofWords (headWords s)) { finishHead s with cmd := { s.cmd with lotStart := none } } := by
  rw [completeLayout, hk]
  simp only [hr]
  rw [closeLotStart, finishHead_cmd]

theorem completeLayout_of_none {s : State} (hk : headKind s = some .layout) (hr : s.cmd.lotStart = none) :
    completeLayout s = finishHead s := by
  rw [completeLayout, hk]
  simp only [hr]

theorem decideStart_of_error {s : State} (h : s.path.draining = false ∧ s.path.reloadPending = false) {r : LotRequest}
    {l : Layout} {c : CommandCode} (hc : startTests s r l = .error c) : decideStart r l s = answer c s := by
  have hno : ¬ (s.path.draining || s.path.reloadPending) = true := by
    rw [h.1, h.2]
    exact Bool.false_ne_true
  rw [decideStart, if_neg hno, hc]

theorem decideStart_of_ok {s : State} (h : s.path.draining = false ∧ s.path.reloadPending = false) {r : LotRequest}
    {l : Layout} {p : Port} {m : BitVec 25} (hc : startTests s r l = .ok (p, m)) :
    decideStart r l s = acceptLot r p m l s := by
  have hno : ¬ (s.path.draining || s.path.reloadPending) = true := by
    rw [h.1, h.2]
    exact Bool.false_ne_true
  rw [decideStart, if_neg hno, hc]

/-- A completion finds its job at the head: it leaves the queue, and its bursts reach memory. -/
theorem finishHead_of_headKind {s : State} {k : JobKind} (h : headKind s = some k) : ∃ j js, s.path.jobs = j :: js ∧
    j.kind = k ∧ finishHead s = { s with mem := (runBursts s.mem j.got j.bursts).1, path := { s.path with jobs := js } } := by
  obtain ⟨-, j, js, hj, hk⟩ := (headKind_eq_some s k).mp h
  refine ⟨j, js, hj, hk, ?_⟩
  rw [finishHead, hj]

theorem finishHead_flags (s : State) : (finishHead s).path.draining = s.path.draining ∧
    (finishHead s).path.reloadPending = s.path.reloadPending := by
  unfold finishHead
  cases s.path.jobs <;> exact ⟨rfl, rfl⟩

/-- Settles O12: the tests of `startTests` in their order, made on a state with the lots, records and ports of `s`. -/
theorem layoutReadComplete : Obligations.LayoutReadComplete := by
  refine ⟨fun r s hk hr hrun => ?_, fun s hk hr hrun => ?_, fun _ _ _ _ _ _ _ => rfl⟩
  · intro l u refusedWith port full inUse ready valid noReload
    have huRun : NoRunDue u := noRunDue_of_handling hrun (finishHead_handling s)
    have hdone := completeLayout_of_start hk hr
    have htests : startTests u r l = startTests s r l :=
      startTests_congr (finishHead_lots s) (finishHead_wafers s) (finishHead_handling s) r l
    have hflags : noReload → u.path.draining = false ∧ u.path.reloadPending = false := fun h =>
      ⟨(finishHead_flags s).1.trans h.1, (finishHead_flags s).2.trans h.2⟩
    have hrefused : ∀ c, noReload → startTests s r l = .error c → refusedWith c := fun c h hc =>
      exec_unit_idle completeLayout rfl (hdone.trans (decideStart_of_error (hflags h) (htests.trans hc))) huRun
    have hready : ∀ p m, ready p m ↔ portOfArg r.a1 = some p ∧ readyMap s p = some m := fun p m =>
      and_congr_right' (readyMap_eq_some_iff s p m).symm
    refine ⟨fun hreload => ?_, fun h hfull => ?_, fun h hfull huse => ?_, fun h hfull hfree hnone => ?_,
      fun h hfull hfree hex hinvalid => ?_, fun p m h hfull hfree hrm hvalid => ?_⟩
    · refine exec_unit_idle completeLayout rfl (hdone.trans (if_pos ?_)) huRun
      by_contra hno
      rw [Bool.not_eq_true, Bool.or_eq_false_iff] at hno
      exact hreload ⟨(finishHead_flags s).1.symm.trans hno.1, (finishHead_flags s).2.symm.trans hno.2⟩
    · exact hrefused _ h (startTests_queueFull hfull r l)
    · obtain ⟨p, hp, hlot⟩ := huse
      exact hrefused _ h (startTests_inUse hfull r l hp hlot)
    · exact hrefused _ h (startTests_of_free hfull r l hfree fun p m hpm => hnone p m ((hready p m).mpr hpm))
    · obtain ⟨p, m, hrm⟩ := hex
      obtain ⟨hp, hm⟩ := (hready p m).mp hrm
      refine hrefused _ h ((startTests_of_ready hfull r l hfree hp hm).trans (if_neg fun hv => hinvalid ?_))
      exact (layoutValid_iff r.a3 l).mp hv
    · obtain ⟨hp, hm⟩ := (hready p m).mp hrm
      have hok := (startTests_of_ready hfull r l hfree hp hm).trans (if_pos ((layoutValid_iff r.a3 l).mpr hvalid))
      refine exec_unit completeLayout rfl (hdone.trans ((decideStart_of_ok (hflags h) (htests.trans hok)).trans ?_))
      obtain ⟨j, js, -, -, hfin⟩ := finishHead_of_headKind hk
      simp only [u, hfin]
      rfl
  · exact exec_unit_idle completeLayout rfl (completeLayout_of_none hk hr)
      (noRunDue_of_handling hrun (finishHead_handling s))

end Sys2Proof.Machine
end

-- ==== Proofs: the records and the lot that a LOT_START makes (R4, R5) ====
section
namespace Sys2Proof.Machine

theorem waferAt_createWafers {s : State} {i : Nat} (hi : i < s.wafers.length) (p : Port) (run : Nat) (number : Word)
    (sel present : BitVec 25) : waferAt { s with wafers := createWafers p run number sel present s.wafers } i =
      if homePort i = p then some (createdWafer run number (sel.getLsbD (i % 25)) (present.getLsbD (i % 25)))
      else waferAt s i := by
  simp only [waferAt, createWafers, List.getD_eq_getElem?_getD, List.getElem?_mapIdx, List.getElem?_eq_getElem hi,
    Option.map_some, Option.getD_some]

/-- A created record has the fields of a fresh one, whatever its phase. -/
theorem createdWafer_fresh (run : Nat) (number : Word) (selected present : Bool) :
    let w := createdWafer run number selected present
    w.run = run ∧ w.lotNumber = number ∧ w.location = .slot ∧ w.prealign = none ∧ w.align.used = 0 ∧
      w.transform = none ∧ w.drift = ⟨0, 0⟩ ∧ w.aborting = false ∧ w.reviewEnd = false := by
  cases selected <;> cases present <;> exact ⟨rfl, rfl, rfl, rfl, rfl, rfl, rfl, rfl, rfl⟩

/-- Settles O13. -/
theorem lotIsMade : Obligations.LotIsMade := by
  refine ⟨fun p run number sel present s i h50 hi => ?_, fun s r p l => ?_⟩
  · intro t k
    have hat := waferAt_createWafers (s := s) (hi.trans_eq h50.symm) p run number sel present
    refine ⟨fun hother => hat.trans (if_neg hother), fun hp => ⟨_, hat.trans (if_pos hp), ?_⟩⟩
    obtain ⟨hrun, hlot, hplace, hpre, hused, htransform, hdrift, habort, hend⟩ :=
      createdWafer_fresh run number (sel.getLsbD k) (present.getLsbD k)
    refine ⟨hrun, hlot, hplace, hpre, hused, htransform, hdrift, habort, hend, fun hsel => ?_, fun hsel hpres => ?_,
      fun hsel hpres => ?_⟩
    · rw [hsel]
      exact ⟨rfl, rfl, rfl⟩
    · rw [hsel, hpres]
      exact ⟨rfl, rfl, rfl⟩
    · rw [hsel, hpres]
      exact ⟨rfl, rfl, rfl⟩
  · intro lot
    refine ⟨rfl, rfl, rfl, rfl, rfl, fun hnone => ?_, fun hsome => ?_, latchSettings s l, rfl, rfl, ?_, ?_, fun c hc => ?_,
      fun n hn => ?_, rfl, rfl, rfl, rfl⟩
    · exact if_pos (Option.isNone_iff_eq_none.mpr hnone)
    · exact if_neg (mt Option.isNone_iff_eq_none.mp hsome)
    · exact (List.length_map _).trans List.length_range
    · exact (List.length_map _).trans List.length_range
    · simp only [latchSettings, List.getD_eq_getElem?_getD, List.getElem?_map, List.getElem?_range hc, Option.map_some,
        Option.getD_some]
    · simp only [latchSettings, List.getElem?_map, List.getElem?_range hn, Option.map_some, watchSettings]

end Sys2Proof.Machine
end

-- ==== Proofs: the focus map and the predicted height (R128, R131 to R133) ====
section
namespace Sys2Proof.Machine

/-! ## A stable sort -/

section Stable
variable {α β : Type}

theorem insertSorted_map (le : β → β → Bool) (f : α → β) (a : α) (l : List α) :
    insertSorted le (f a) (l.map f) = (insertSorted (fun x y => le (f x) (f y)) a l).map f := by
  induction l with
  | nil => rfl
  | cons b l ih =>
    rw [List.map_cons, insertSorted, insertSorted, ih, apply_ite (List.map f), List.map_cons, List.map_cons, List.map_cons]

theorem sortBy_map (le : β → β → Bool) (f : α → β) (l : List α) :
    sortBy le (l.map f) = (sortBy (fun x y => le (f x) (f y)) l).map f := by
  induction l with
  | nil => rfl
  | cons a l ih => rw [List.map_cons, sortBy, ih, insertSorted_map, sortBy]

theorem insertSorted_congr {le le' : α → α → Bool} {a : α} {l : List α} (h : ∀ b ∈ l, le a b = le' a b) :
    insertSorted le a l = insertSorted le' a l := by
  induction l with
  | nil => rfl
  | cons b l ih =>
    obtain ⟨hb, hl⟩ := List.forall_mem_cons.mp h
    rw [insertSorted, insertSorted, hb, ih hl]

/-- An insertion sort compares only elements with later ones of its list. -/
theorem sortBy_congr {le le' : α → α → Bool} {l : List α} (h : l.Pairwise fun a b => le a b = le' a b) :
    sortBy le l = sortBy le' l := by
  induction l with
  | nil => rfl
  | cons a l ih =>
    obtain ⟨ha, hl⟩ := List.pairwise_cons.mp h
    rw [sortBy, sortBy, ih hl]
    exact insertSorted_congr fun b hb => ha b ((sortBy_perm le' l).mem_iff.mp hb)

end Stable

/-! ## The points a prediction uses -/

section Candidates
variable (map : List MapPoint) (t : Point) (r : Nat)

/-- The point at a place of the map. -/
def pointAt (k : Nat) : MapPoint := map.getD k ⟨⟨0, 0⟩, 0⟩

/-- Its squared distance to a target. -/
def distanceAt (k : Nat) : Nat := distance2 t (pointAt map k).pos

/-- The order of the points used: by distance, and among equals the newer first (R131). -/
def newerNearer (j k : Nat) : Bool :=
  decide (distanceAt map t j < distanceAt map t k ∨ (distanceAt map t j = distanceAt map t k ∧ k < j))

/-- A place of the map within the radius. -/
def isNear (k : Nat) : Bool := decide (distanceAt map t k ≤ r * r)

/-- The places of the points within the radius, newest first. -/
def nearPlaces : List Nat := (List.range map.length).reverse.filter (isNear map t r)

/-- The places of the points used, in their order. -/
def usedPlaces : List Nat := (sortBy (newerNearer map t) (nearPlaces map t r)).take 4

variable {map t r}

theorem newerNearer_iff {j k : Nat} : newerNearer map t j k = true ↔
    distanceAt map t j < distanceAt map t k ∨ (distanceAt map t j = distanceAt map t k ∧ k < j) := decide_eq_true_iff

theorem newerNearer_trans (i j k : Nat) (hij : newerNearer map t i j = true) (hjk : newerNearer map t j k = true) :
    newerNearer map t i k = true := by
  rw [newerNearer_iff] at *
  omega

theorem mem_nearPlaces {k : Nat} : k ∈ nearPlaces map t r ↔ k < map.length ∧ distanceAt map t k ≤ r * r := by
  rw [nearPlaces, List.mem_filter, List.mem_reverse, List.mem_range, isNear, decide_eq_true_iff]

/-- Newest first: the places fall. -/
theorem nearPlaces_pairwise : (nearPlaces map t r).Pairwise fun j k => k < j :=
  (List.pairwise_reverse.mpr List.pairwise_lt_range).filter _

theorem map_pointAt : (List.range map.length).map (pointAt map) = map := by
  refine List.ext_getElem? fun k => ?_
  rw [List.getElem?_map]
  rcases Nat.lt_or_ge k map.length with hk | hk
  · rw [List.getElem?_range hk, Option.map_some, pointAt, List.getD_eq_getElem?_getD, List.getElem?_eq_getElem hk,
      Option.getD_some]
  · rw [List.getElem?_eq_none (by simpa using hk), List.getElem?_eq_none hk, Option.map_none]

variable (map t r)

/-- The model sorts by distance a list that is newest first, and its sort is stable. -/
theorem candidates_eq_usedPlaces :
    candidates map t r = (usedPlaces map t r).map fun k => (distanceAt map t k, (pointAt map k).z) := by
  have hmeasured : measured map t = (List.range map.length).reverse.map fun k => (distanceAt map t k, (pointAt map k).z) := by
    conv_lhs => rw [measured, ← map_pointAt (map := map), ← List.map_reverse, List.map_map]
    rfl
  have hfilter : (measured map t).filter (fun c => decide (c.1 ≤ r * r)) =
      (nearPlaces map t r).map fun k => (distanceAt map t k, (pointAt map k).z) := by
    rw [hmeasured, List.filter_map]
    rfl
  have hstable : sortBy (fun j k => decide (distanceAt map t j ≤ distanceAt map t k)) (nearPlaces map t r) =
      sortBy (newerNearer map t) (nearPlaces map t r) := sortBy_congr (nearPlaces_pairwise.imp fun {j k} hkj => by
    rw [Bool.eq_iff_iff, decide_eq_true_iff, newerNearer_iff]
    omega)
  rw [candidates, hfilter, sortBy_map, hstable, ← List.map_take]
  rfl

theorem usedPlaces_sorted : (sortBy (newerNearer map t) (nearPlaces map t r)).Pairwise fun j k =>
    newerNearer map t j k = true :=
  sortBy_pairwise _ newerNearer_trans (nearPlaces_pairwise.imp fun {j k} hkj => by
    rw [newerNearer_iff, newerNearer_iff]
    omega)

variable {map t r}

theorem near_of_mem_usedPlaces {k : Nat} (h : k ∈ usedPlaces map t r) :
    k < map.length ∧ distanceAt map t k ≤ r * r :=
  mem_nearPlaces.mp ((sortBy_perm _ _).mem_iff.mp (List.mem_of_mem_take h))

/-- A near point that is not used comes after four that are. -/
theorem usedPlaces_of_not_mem {k : Nat} (hk : k < map.length ∧ distanceAt map t k ≤ r * r)
    (hnot : k ∉ usedPlaces map t r) : (usedPlaces map t r).length = 4 ∧
      ∀ j ∈ usedPlaces map t r, newerNearer map t j k = true := by
  have hmem : k ∈ sortBy (newerNearer map t) (nearPlaces map t r) := (sortBy_perm _ _).mem_iff.mpr (mem_nearPlaces.mpr hk)
  have hsorted := usedPlaces_sorted map t r
  rw [← List.take_append_drop 4 (sortBy _ _)] at hmem hsorted
  have hdrop := (List.mem_append.mp hmem).resolve_left hnot
  refine ⟨?_, fun j hj => (List.pairwise_append.mp hsorted).2.2 j hj k hdrop⟩
  have hlong := List.length_pos_of_mem hdrop
  rw [List.length_drop] at hlong
  rw [usedPlaces, List.length_take]
  omega

theorem mem_map_iff_pointAt {p : MapPoint} : p ∈ map ↔ ∃ k, k < map.length ∧ pointAt map k = p := by
  conv_lhs => rw [← map_pointAt (map := map), List.mem_map]
  simp only [List.mem_range]

end Candidates

/-! ## The height the points give, and the map -/

theorem distance2_cast (p q : Point) : (distance2 p q : Int) =
    roundDiv (p.x - q.x) 1000 * roundDiv (p.x - q.x) 1000 + roundDiv (p.y - q.y) 1000 * roundDiv (p.y - q.y) 1000 :=
  Int.toNat_of_nonneg (Int.add_nonneg (mul_self_nonneg _) (mul_self_nonneg _))

theorem weighted_of_zero (z : Int) (cs : List (Nat × Int)) : weighted ((0, z) :: cs) = z := rfl

theorem weighted_of_positive {cs : List (Nat × Int)} (h : ∀ c ∈ cs, c.1 ≠ 0) :
    weighted cs = if (cs.map fun c => 2 ^ 32 / c.1).sum = 0 then roundDiv (cs.map (·.2)).sum cs.length
      else roundDiv (cs.map fun c => ((2 ^ 32 / c.1 : Nat) : Int) * c.2).sum (cs.map fun c => 2 ^ 32 / c.1).sum := by
  have hnone : cs.find? (fun c => c.1 == 0) = none :=
    List.find?_eq_none.mpr fun c hc hzero => h c hc (beq_iff_eq.mp hzero)
  rw [weighted, hnone]
  simp only [List.zipWith_map_left, List.zipWith_self, meanOf, List.length_map]

theorem near_kept_iff (p q : MapPoint) : nearLimit ≤ distance2 p.pos q.pos ↔
    (250000 : Int) ≤ roundDiv (p.pos.x - q.pos.x) 1000 * roundDiv (p.pos.x - q.pos.x) 1000 +
      roundDiv (p.pos.y - q.pos.y) 1000 * roundDiv (p.pos.y - q.pos.y) 1000 := by
  rw [← distance2_cast]
  exact (Int.ofNat_le (m := 250000)).symm

/-- The points that stay when a point is inserted. -/
def keptPoints (map : List MapPoint) (p : MapPoint) : List MapPoint :=
  map.filter fun q => decide (nearLimit ≤ distance2 p.pos q.pos)

theorem insertPoint_of_room {map : List MapPoint} {p : MapPoint}
    (h : (keptPoints map p).length < map.length ∨ map.length < 64) : insertPoint map p = keptPoints map p ++ [p] :=
  if_neg fun ⟨hall, hfull⟩ => by
    have hall : (keptPoints map p).length = map.length := hall
    have hfull : 64 ≤ map.length := hfull
    omega

theorem insertPoint_of_full {map : List MapPoint} {p : MapPoint} (h : (keptPoints map p).length = map.length)
    (hfull : 64 ≤ map.length) : insertPoint map p = map.tail ++ [p] := by
  have hkept : keptPoints map p = map := List.filter_sublist.eq_of_length h
  refine (if_pos ⟨h, hfull⟩).trans ?_
  rw [← keptPoints, hkept]

theorem length_insertPoint {map : List MapPoint} (p : MapPoint) (h : map.length ≤ 64) :
    (insertPoint map p).length ≤ 64 := by
  have hkept : (keptPoints map p).length ≤ map.length := List.length_filter_le _ _
  rcases Nat.lt_or_ge map.length 64 with hroom | hfull
  · rw [insertPoint_of_room (.inr hroom), List.length_append, List.length_singleton]
    omega
  · rcases Nat.lt_or_eq_of_le hkept with hless | hall
    · rw [insertPoint_of_room (.inl hless), List.length_append, List.length_singleton]
      omega
    · rw [insertPoint_of_full hall hfull, List.length_append, List.length_tail, List.length_singleton]
      omega

/-! ## The predicted height -/

theorem candidates_eq_nil {map : List MapPoint} {t : Point} {r : Nat} (h : ∀ p ∈ map, ¬ distance2 t p.pos ≤ r * r) :
    candidates map t r = [] := by
  rw [candidates_eq_usedPlaces, List.map_eq_nil_iff, List.eq_nil_iff_forall_not_mem]
  intro k hk
  obtain ⟨hlt, hnear⟩ := near_of_mem_usedPlaces hk
  exact h _ (mem_map_iff_pointAt.mpr ⟨k, hlt, rfl⟩) hnear

theorem predict_of_near {s : State} {i : Nat} {t : Point} (h : candidates s.focus.map t (paramNat s 15) ≠ []) :
    predict s i t = (weighted (candidates s.focus.map t (paramNat s 15)), .nearest) := by
  have hsome : (!(candidates s.focus.map t (paramNat s 15)).isEmpty) = true := by
    rwa [Bool.not_eq_true', Bool.eq_false_iff, ne_eq, List.isEmpty_iff]
  exact if_pos hsome

theorem predict_of_far {s : State} {i : Nat} {t : Point} (h : candidates s.focus.map t (paramNat s 15) = [])
    (hmap : s.focus.map ≠ []) :
    predict s i t = (roundDiv (s.focus.map.map (·.z)).sum s.focus.map.length, .mapMean) := by
  have hsome : (!s.focus.map.isEmpty) = true := by
    rwa [Bool.not_eq_true', Bool.eq_false_iff, ne_eq, List.isEmpty_iff]
  rw [predict, h]
  refine (if_pos hsome).trans ?_
  rw [meanOf, List.length_map]

/-- Settles O45: the points used are at the places `usedPlaces`, by the stability of the sort. -/
theorem focusPrediction : Obligations.FocusPrediction := by
  refine ⟨fun map p => ?insert, fun s i t w l st hw hl hst => ?predict, fun map t r => ?order, distance2_cast,
    fun cs => ?weight⟩
  case insert =>
    intro du dv kept
    have hkept : keptPoints map p = kept := List.filter_congr fun q _ => decide_eq_decide.mpr (near_kept_iff p q)
    rw [← hkept]
    exact ⟨insertPoint_of_room, insertPoint_of_full, length_insertPoint p⟩
  case predict =>
    intro r near
    have hempty : s.focus.map = [] → candidates s.focus.map t r = [] := fun hmap => by rw [hmap]; rfl
    have hsettings : settingsOf s i = some st := (settingsOf_eq hw hl).trans hst
    have hnominal : predict.nominal s i = st.layout.nominalZ := by rw [predict.nominal, hsettings]; rfl
    refine ⟨fun d hmap hd hrun => ?_, fun hmap hd => ?_, fun hmap hfar => predict_of_far (candidates_eq_nil hfar) hmap,
      fun hnear => ?_⟩
    · rw [predict, hempty hmap, hmap, hd, hw]
      exact if_pos (congrArg some hrun.symm)
    · rw [predict, hempty hmap, hmap, hw]
      cases hseed : s.focus.seed with
      | none => exact congrArg (·, FocusSource.nominal) hnominal
      | some d =>
        exact (if_neg fun hrun => hd d hseed (Option.some.inj hrun).symm).trans
          (congrArg (·, FocusSource.nominal) hnominal)
    · intro used
      have hused : used = _ := candidates_eq_usedPlaces s.focus.map t r
      have hlength : used.length = (usedPlaces s.focus.map t r).length := by rw [hused, List.length_map]
      have hall : ∀ p ∈ s.focus.map, near p → (distance2 t p.pos, p.z) ∈ used ∨
          (used.length = 4 ∧ ∀ c ∈ used, c.1 ≤ distance2 t p.pos) := by
        intro p hp hpnear
        obtain ⟨k, hk, rfl⟩ := mem_map_iff_pointAt.mp hp
        by_cases hin : k ∈ usedPlaces s.focus.map t r
        · exact .inl (hused ▸ List.mem_map.mpr ⟨k, hin, rfl⟩)
        · obtain ⟨hfour, hfirst⟩ := usedPlaces_of_not_mem ⟨hk, hpnear⟩ hin
          refine .inr ⟨hlength.trans hfour, fun c hc => ?_⟩
          obtain ⟨j, hj, rfl⟩ := List.mem_map.mp (hused ▸ hc)
          rcases newerNearer_iff.mp (hfirst j hj) with hlt | ⟨heq, -⟩
          · exact Nat.le_of_lt hlt
          · exact Nat.le_of_eq heq
      have hne : used ≠ [] := by
        obtain ⟨p, hp, hpnear⟩ := hnear
        rcases hall p hp hpnear with hin | ⟨hfour, -⟩
        · exact List.ne_nil_of_mem hin
        · exact List.ne_nil_of_length_eq_add_one hfour
      refine ⟨predict_of_near hne, hne, ?_, fun c hc => ?_, hall⟩
      · rw [hlength]
        exact List.length_take_le 4 _
      · obtain ⟨k, hk, rfl⟩ := List.mem_map.mp (hused ▸ hc)
        obtain ⟨hlt, hknear⟩ := near_of_mem_usedPlaces hk
        exact ⟨_, mem_map_iff_pointAt.mpr ⟨k, hlt, rfl⟩, hknear, rfl⟩
  case order =>
    intro d comesFirst near
    refine ⟨usedPlaces map t r, candidates_eq_usedPlaces map t r, ?_, fun k => near_of_mem_usedPlaces,
      fun k hk hnot => ?_⟩
    · exact ((usedPlaces_sorted map t r).sublist (List.take_sublist _ _)).imp newerNearer_iff.mp
    · obtain ⟨hfour, hfirst⟩ := usedPlaces_of_not_mem hk hnot
      exact ⟨hfour, fun j hj => newerNearer_iff.mp (hfirst j hj)⟩
  case weight =>
    intro weight total
    refine ⟨fun z cs' hcs => hcs ▸ weighted_of_zero z cs', fun hpos htotal => ?_, fun hpos htotal => ?_⟩
    · exact (weighted_of_positive hpos).trans (if_neg htotal)
    · exact (weighted_of_positive hpos).trans (if_pos htotal)

end Sys2Proof.Machine
end

-- ==== Proofs: a height sample in the focus unit, and the focus trace (R115 to R125, R134 to R136) ====
section
namespace Sys2Proof.Machine

/-! ## The focus trace -/

theorem traceMatches_iff (st : Settings) (cls : Nat) : traceMatches st cls = true ↔
    st.traceEnable = true ∧ (st.traceMismatch = false ↔ (cls &&& st.traceMask) = (st.traceClass &&& st.traceMask)) := by
  rw [traceMatches, Bool.and_eq_true, bne_iff_ne]
  refine and_congr_right' ?_
  cases st.traceMismatch <;> simp

theorem traceFree_iff (s : State) : traceFree s = true ↔ s.focus.trace = none ∧ s.focus.traceHanded = false := by
  rw [traceFree, Bool.and_eq_true, Option.isNone_iff_eq_none, Bool.not_eq_true']

theorem startTrace_of_wafer {s : State} {e : Entry} {st : Settings} {w : Wafer} (hst : settingsOf s e.wafer = some st)
    (hw : waferAt s e.wafer = some w) : startTrace e s =
      if traceMatches st e.roughClass && traceFree s then
        { s with focus := { s.focus with trace := some ⟨e.wafer, e.index, e.defectId, w.lotNumber, []⟩ } }
      else s := by
  rw [startTrace, hst, hw]

theorem endTrace_of_none {s : State} (h : s.focus.trace = none) : endTrace s = s := by
  rw [endTrace, h]

theorem endTrace_of_empty {s : State} {t : Trace} (h : s.focus.trace = some t) (ht : t.samples = []) :
    endTrace s = { s with focus := { s.focus with trace := none } } := by
  rw [endTrace, h]
  exact if_pos (List.isEmpty_iff.mpr ht)

theorem endTrace_of_samples {s : State} {t : Trace} (h : s.focus.trace = some t) (ht : t.samples ≠ []) :
    endTrace s = ringTest { s with
      focus := { s.focus with trace := none, traceHanded := true }
      report := { s.report with queue := s.report.queue ++ [⟨.trace t.wafer, traceReportWords t⟩] } } := by
  rw [endTrace, h]
  exact if_neg (mt List.isEmpty_iff.mp ht)

/-- A trace with one more sample (R135). -/
def sampled (z : Word) (q : Byte) (st : FocusState) (t : Trace) : Trace := { t with samples := t.samples ++ [⟨z, q, st⟩] }

theorem length_sampled (z : Word) (q : Byte) (st : FocusState) (t : Trace) :
    (sampled z q st t).samples.length = t.samples.length + 1 := List.length_append

theorem recordSample_of_none {s : State} (h : s.focus.trace = none) (z : Word) (q : Byte) : recordSample z q s = s := by
  rw [recordSample, h]

section
variable {s : State} {t : Trace} (h : s.focus.trace = some t) (z : Word) (q : Byte)
include h

theorem recordSample_of_room (hroom : t.samples.length + 1 < 128) :
    recordSample z q s = { s with focus := { s.focus with trace := some (sampled z q s.focus.state t) } } := by
  rw [recordSample, h]
  exact if_neg (Nat.not_le.mpr ((length_sampled z q s.focus.state t).trans_lt hroom))

theorem recordSample_of_full (hfull : 128 ≤ t.samples.length + 1) :
    recordSample z q s =
      endTrace { s with focus := { s.focus with trace := some (sampled z q s.focus.state t) } } := by
  rw [recordSample, h]
  exact if_pos (hfull.trans_eq (length_sampled z q s.focus.state t).symm)

end

/-- Recording changes the trace, and may hand a report over, which may then wait for a queue place. -/
theorem recordSample_frame (s : State) (z : Word) (q : Byte) : ∃ ps tr handed r, recordSample z q s = { s with
    path := { s.path with waiters := ps }, focus := { s.focus with trace := tr, traceHanded := handed }, report := r } := by
  cases h : s.focus.trace with
  | none =>
    refine ⟨s.path.waiters, none, s.focus.traceHanded, s.report, ?_⟩
    rw [recordSample_of_none h, ← h]
  | some t =>
    rcases Nat.lt_or_ge (t.samples.length + 1) 128 with hroom | hfull
    · exact ⟨s.path.waiters, _, s.focus.traceHanded, s.report, recordSample_of_room h z q hroom⟩
    · have hne : (sampled z q s.focus.state t).samples ≠ [] := List.append_ne_nil_of_right_ne_nil _ nofun
      rw [recordSample_of_full h z q hfull, endTrace_of_samples rfl hne]
      obtain ⟨ps, hring⟩ := ringTest_frame { s with
        focus := { s.focus with trace := none, traceHanded := true }
        report := { s.report with queue := s.report.queue ++ [⟨.trace t.wafer,
          traceReportWords (sampled z q s.focus.state t)⟩] } }
      exact ⟨ps, none, true, _, hring⟩

/-! ## The debt and the lock -/

/-- The messages of an owed FOCUS_SET (R137). -/
def owedMessages (f : Focus) : List LinkMessage := if f.owed then [.focusSet f.output] else []

theorem payDebt_eq (s : State) :
    payDebt s = { s with out := owedMessages s.focus ++ s.out, focus := { s.focus with owed := false } } := by
  rw [payDebt, owedMessages]
  cases h : s.focus.owed with
  | true => rfl
  | false =>
    have hfocus : s.focus = { s.focus with owed := false } := by rw [← h]
    simp only [Bool.false_eq_true, if_false, List.nil_append, ← hfocus]

/-- The focus unit once the lock has taken a sample, before the output is set. -/
def lockTaken (v : Visit) (z : Word) (q : Byte) (s : State) : Focus :=
  if acceptsSample s v.zPred z q then
    { lockAccepted (paramNat s 12) (paramNat s 13) s.focus with accepted := joinAccepted s.focus.accepted z.toInt }
  else lockUnaccepted (paramNat s 14) s.focus

theorem acceptsSample_iff (s : State) (zPred : Int) (z : Word) (q : Byte) : acceptsSample s zPred z q = true ↔
    param s 10 ≤ q.toNat ∧ ((z.toInt - zPred).natAbs : Int) ≤ param s 11 := by
  rw [acceptsSample, validSample, Bool.and_eq_true, decide_eq_true_iff, decide_eq_true_iff]

theorem lockTaken_accepted {v : Visit} {z : Word} {q : Byte} {s : State} (h : acceptsSample s v.zPred z q = true) :
    lockTaken v z q s = { lockAccepted (paramNat s 12) (paramNat s 13) s.focus with
      accepted := joinAccepted s.focus.accepted z.toInt } := if_pos h

theorem lockTaken_unaccepted {v : Visit} {z : Word} {q : Byte} {s : State} (h : ¬ acceptsSample s v.zPred z q = true) :
    lockTaken v z q s = lockUnaccepted (paramNat s 14) s.focus := if_neg h

/-- The lock changes its state, its flag and its counts. -/
structure LockFrame (f g : Focus) : Prop where
  frame : g = { f with
    state := g.state, unsettled := g.unsettled, run := g.run, settle := g.settle, holdover := g.holdover
    accepted := g.accepted }

theorem lockAccepted_frame (L P : Nat) (f : Focus) : LockFrame f (lockAccepted L P f) ∧
    (lockAccepted L P f).accepted = f.accepted := by
  unfold lockAccepted
  cases f.state <;> dsimp only
  case acquiring => split <;> exact ⟨⟨rfl⟩, rfl⟩
  case lost => split <;> exact ⟨⟨rfl⟩, rfl⟩
  case locked => split <;> exact ⟨⟨rfl⟩, rfl⟩
  all_goals exact ⟨⟨rfl⟩, rfl⟩

theorem lockUnaccepted_frame (H : Nat) (f : Focus) : LockFrame f (lockUnaccepted H f) ∧
    (lockUnaccepted H f).accepted = f.accepted := by
  unfold lockUnaccepted
  cases f.state <;> dsimp only
  case holdover => split <;> exact ⟨⟨rfl⟩, rfl⟩
  all_goals exact ⟨⟨rfl⟩, rfl⟩

theorem lockTaken_frame (v : Visit) (z : Word) (q : Byte) (s : State) : LockFrame s.focus (lockTaken v z q s) := by
  by_cases h : acceptsSample s v.zPred z q = true
  · rw [lockTaken_accepted h]
    exact ⟨by rw [(lockAccepted_frame (paramNat s 12) (paramNat s 13) s.focus).1.frame]⟩
  · rw [lockTaken_unaccepted h]
    exact (lockUnaccepted_frame _ _).1

/-! ## The output after a sample -/

/-- The output after a sample is set, unless the guard holds it (R122, R125). -/
def Drives (v : Visit) (z : Word) (q : Byte) (s : State) : Prop :=
  ((lockTaken v z q s).state = .locked ∨ (lockTaken v z q s).state ≠ s.focus.state) ∧ s.guard.state = .normal

/-- The value called for after a sample, clamped (R122, R124). -/
def goalOf (v : Visit) (z : Word) (q : Byte) (s : State) : Int :=
  clamp (param s 16) (param s 17) (if (lockTaken v z q s).state = .locked
    then roundDiv (lockTaken v z q s).accepted.sum (lockTaken v z q s).accepted.length +
      ((settingsOf s v.wafer).map (·.layout.focusOffset)).getD 0
    else s.focus.predicted.getD s.focus.output)

/-- What the debt and the lock leave of the focus unit, and the messages sent. -/
structure AfterLock (v : Visit) (z : Word) (q : Byte) (s : State) (f : Focus) (o : List LinkMessage) : Prop where
  frame : f = { lockTaken v z q s with owed := false, output := f.output, boundMin := f.boundMin, boundMax := f.boundMax }
  drives : Drives v z q s → f.output = goalOf v z q s ∧ f.boundMin = param s 16 ∧ f.boundMax = param s 17 ∧
    o = (if goalOf v z q s = s.focus.output then [] else [.focusSet (goalOf v z q s)]) ++ owedMessages s.focus ++ s.out
  holds : ¬ Drives v z q s → f.output = s.focus.output ∧ f.boundMin = s.focus.boundMin ∧
    f.boundMax = s.focus.boundMax ∧ o = owedMessages s.focus ++ s.out

theorem lockAccepted_owed (L P : Nat) (f : Focus) (b : Bool) :
    lockAccepted L P { f with owed := b } = { lockAccepted L P f with owed := b } := by
  rcases f with ⟨st, _⟩
  unfold lockAccepted
  cases st <;> dsimp only
  case acquiring => split <;> rfl
  case lost => split <;> rfl
  case locked => split <;> rfl

theorem lockUnaccepted_owed (H : Nat) (f : Focus) (b : Bool) :
    lockUnaccepted H { f with owed := b } = { lockUnaccepted H f with owed := b } := by
  rcases f with ⟨st, _⟩
  unfold lockUnaccepted
  cases st <;> dsimp only
  case holdover => split <;> rfl

/-- The debt is paid before the lock takes the sample, which does not look at it. -/
theorem lockTaken_payDebt (v : Visit) (z : Word) (q : Byte) (s : State) :
    lockTaken v z q (payDebt s) = { lockTaken v z q s with owed := false } := by
  rw [payDebt_eq]
  by_cases h : acceptsSample s v.zPred z q = true
  · rw [lockTaken_accepted h]
    refine (if_pos h).trans ?_
    exact congrArg (fun f : Focus => { f with accepted := joinAccepted s.focus.accepted z.toInt })
      (lockAccepted_owed (paramNat s 12) (paramNat s 13) s.focus false)
  · rw [lockTaken_unaccepted h]
    exact (if_neg h).trans (lockUnaccepted_owed (paramNat s 14) s.focus false)

/-- The state after the debt and the lock, before the output is set. -/
def lockState (v : Visit) (z : Word) (q : Byte) (s : State) : State :=
  { s with out := owedMessages s.focus ++ s.out, focus := { lockTaken v z q s with owed := false } }

theorem lockSample_payDebt (v : Visit) (z : Word) (q : Byte) (s : State) :
    lockSample v z q (payDebt s) = lostEvent s.focus.state v (lockOutput s.focus.state (lockState v z q s)) := by
  have h := lockTaken_payDebt v z q s
  change lostEvent (payDebt s).focus.state v (lockOutput (payDebt s).focus.state
    { payDebt s with focus := lockTaken v z q (payDebt s) }) = _
  rw [h, payDebt_eq]
  rfl

theorem lockAccepted_ne_idle {f : Focus} (h : f.state ≠ .idle) (L P : Nat) : (lockAccepted L P f).state ≠ .idle := by
  unfold lockAccepted
  cases hs : f.state with
  | idle => exact absurd hs h
  | acquiring => dsimp only; split <;> simp
  | lost => dsimp only; split <;> simp
  | locked => dsimp only; split <;> simp [hs]
  | holdover => simp

theorem lockUnaccepted_ne_idle {f : Focus} (h : f.state ≠ .idle) (H : Nat) : (lockUnaccepted H f).state ≠ .idle := by
  unfold lockUnaccepted
  cases hs : f.state with
  | idle => exact absurd hs h
  | holdover => dsimp only; split <;> simp
  | _ => simp

/-- The lock is never IDLE after a sample that finds it in another state. -/
theorem lockTaken_idle {v : Visit} {z : Word} {q : Byte} {s : State} (h : (lockTaken v z q s).state = .idle) :
    s.focus.state = .idle := by
  by_contra hne
  by_cases ha : acceptsSample s v.zPred z q = true
  · rw [lockTaken_accepted ha] at h
    exact lockAccepted_ne_idle hne _ _ h
  · rw [lockTaken_unaccepted ha] at h
    exact lockUnaccepted_ne_idle hne _ h

theorem calledFor_lockState {v : Visit} {s : State} (hv : s.visit.current = some v) (z : Word) (q : Byte)
    (h : (lockTaken v z q s).state = .locked ∨ (lockTaken v z q s).state ≠ s.focus.state) :
    clamp (param s 16) (param s 17) (calledFor (lockState v z q s)) = goalOf v z q s := by
  have hframe := (lockTaken_frame v z q s).frame
  have hpredicted : (lockTaken v z q s).predicted.getD (lockTaken v z q s).output =
      s.focus.predicted.getD s.focus.output := by rw [hframe]
  have hoffset : visitOffset (lockState v z q s) = ((settingsOf s v.wafer).map (·.layout.focusOffset)).getD 0 := by
    have hcurrent : (lockState v z q s).visit.current = some v := hv
    rw [visitOffset, hcurrent]
    rfl
  have hstate : (lockState v z q s).focus.state = (lockTaken v z q s).state := rfl
  refine congrArg _ ?_
  rw [calledFor, hstate, hoffset, ← hpredicted]
  cases hg : (lockTaken v z q s).state with
  | idle => exact absurd (hg.trans (lockTaken_idle hg).symm) (h.resolve_left (by rw [hg]; nofun))
  | locked => exact (if_pos rfl).symm
  | _ => exact (if_neg nofun).symm

theorem lockOutput_of_drives {v : Visit} {s : State} (hv : s.visit.current = some v) {z : Word} {q : Byte}
    (h : Drives v z q s) : ∃ f o, AfterLock v z q s f o ∧
      lockOutput s.focus.state (lockState v z q s) = { s with focus := f, out := o } := by
  have hframe := (lockTaken_frame v z q s).frame
  have houtput : (lockTaken v z q s).output = s.focus.output := by rw [hframe]
  have hset : lockOutput s.focus.state (lockState v z q s) =
      driveOutput (goalOf v z q s) (renewBounds (lockState v z q s)) := by
    rw [← calledFor_lockState hv z q h.1]
    refine (if_pos ?_).trans (setOutput_of_free (s := lockState v z q s) ((guardHolds_eq_false_iff _).mpr h.2) _)
    rw [Bool.or_eq_true, decide_eq_true_iff, decide_eq_true_iff]
    exact h.1.symm
  rw [hset, driveOutput]
  by_cases hsame : goalOf v z q s = s.focus.output
  · refine ⟨_, _, ⟨rfl, fun _ => ⟨?_, rfl, rfl, ?_⟩, absurd h⟩, if_pos (hsame.trans houtput.symm)⟩
    · exact houtput.trans hsame.symm
    · rw [if_pos hsame]
      rfl
  · refine ⟨_, _, ⟨rfl, fun _ => ⟨rfl, rfl, rfl, ?_⟩, absurd h⟩, if_neg fun hgoal => hsame (hgoal.trans houtput)⟩
    rw [if_neg hsame]
    rfl

theorem lockOutput_of_holds {v : Visit} {s : State} {z : Word} {q : Byte} (h : ¬ Drives v z q s) :
    ∃ f o, AfterLock v z q s f o ∧ lockOutput s.focus.state (lockState v z q s) = { s with focus := f, out := o } := by
  have hframe := (lockTaken_frame v z q s).frame
  have hkeep : lockOutput s.focus.state (lockState v z q s) = lockState v z q s := by
    by_cases hcond : (lockTaken v z q s).state = .locked ∨ (lockTaken v z q s).state ≠ s.focus.state
    · have hheld : guardHolds (lockState v z q s) = true := (guardHolds_eq_true_iff _).mpr fun hn => h ⟨hcond, hn⟩
      have hrefresh : refreshOutput (lockState v z q s) = lockState v z q s := setOutput_of_held hheld _
      rw [lockOutput, hrefresh, ite_self]
    · refine if_neg fun hor => hcond ?_
      rw [Bool.or_eq_true, decide_eq_true_iff, decide_eq_true_iff] at hor
      exact hor.symm
  have hoff : (lockTaken v z q s).output = s.focus.output ∧ (lockTaken v z q s).boundMin = s.focus.boundMin ∧
      (lockTaken v z q s).boundMax = s.focus.boundMax := by
    rw [hframe]
    exact ⟨rfl, rfl, rfl⟩
  obtain ⟨hout, hmin, hmax⟩ := hoff
  exact ⟨(lockState v z q s).focus, (lockState v z q s).out, ⟨rfl, fun hd => absurd hd h,
    fun _ => ⟨hout, hmin, hmax, rfl⟩⟩, hkeep⟩

/-- The debt and the lock change the focus unit and the messages sent, as `AfterLock` says. -/
theorem lockOutput_afterLock {v : Visit} {s : State} (hv : s.visit.current = some v) (z : Word) (q : Byte) :
    ∃ f o, AfterLock v z q s f o ∧ lockOutput s.focus.state (lockState v z q s) = { s with focus := f, out := o } := by
  by_cases h : Drives v z q s
  · exact lockOutput_of_drives hv h
  · exact lockOutput_of_holds h

/-! ## The whole sample -/

/-- The focus enters LOST with a sample (R119). -/
def Loses (v : Visit) (z : Word) (q : Byte) (s : State) : Prop :=
  s.focus.state ≠ .lost ∧ (lockTaken v z q s).state = .lost

/-- A sample makes the visit READY (R97). -/
def Readies (v : Visit) (z : Word) (q : Byte) (s : State) : Prop :=
  v.state = .settling ∧ (lockTaken v z q s).state = .locked ∧ (lockTaken v z q s).unsettled = false ∧
    (s.focus.state ≠ .locked ∨ s.focus.unsettled = true)

/-- What posting an event does to the command unit and the job queue depends on these and on the zones. -/
theorem postEvent_congr {s t : State} (hcmd : t.cmd = s.cmd) (hmode : t.path.mode = s.path.mode)
    (hzones : t.path.zones = s.path.zones) (hjobs : t.path.jobs = s.path.jobs) (k : EventKind) (w : Option Nat)
    (a b : Word) : (postEvent k w a b t).cmd = (postEvent k w a b s).cmd ∧
      (postEvent k w a b t).path.jobs = (postEvent k w a b s).path.jobs := by
  have hzoneAt : zoneAt (setCause k.category t) = zoneAt (setCause k.category s) := funext fun i => by
    change (if t.path.mode = .mapped then t.path.zones.getD i Zone.unused else Zone.unused) =
      if s.path.mode = .mapped then s.path.zones.getD i Zone.unused else Zone.unused
    rw [hmode, hzones]
  have hzone : zoneOf (setCause k.category t) .events = zoneOf (setCause k.category s) .events := by
    rw [zoneOf, zoneOf, hzoneAt]
  have hcause : (setCause k.category t).cmd = (setCause k.category s).cmd := by simp only [setCause, hcmd]
  have hqueue : (setCause k.category t).path.jobs = (setCause k.category s).path.jobs := hjobs
  unfold postEvent
  dsimp only
  rw [hzone]
  cases zoneOf (setCause k.category s) .events with
  | none => exact ⟨hcause, hqueue⟩
  | some z =>
    have hblocked : eventBlocked (setCause k.category t) z = eventBlocked (setCause k.category s) z := by
      rw [eventBlocked, eventBlocked, depth, depth, hcause, hqueue]
    simp only [writeEvent, hblocked]
    split
    · exact ⟨by rw [hcause], hqueue⟩
    · simp only [pushJob_cmd, pushJob_jobs, hcause, hqueue, and_self]

/-- The state between the lock and the trace: the output is set, and FOCUS_LOST may be posted. -/
def lostState (v : Visit) (s : State) (f : Focus) (o : List LinkMessage) : State :=
  lostEvent s.focus.state v { s with focus := f, out := o }

/-- The state after the trace, before the focus test of the visit. -/
def tracedState (v : Visit) (z : Word) (q : Byte) (s : State) (f : Focus) (o : List LinkMessage) : State :=
  recordSample z q (lostState v s f o)

theorem settleTest_of_visit {v : Visit} {s : State} (hv : s.visit.current = some v) : settleTest s =
    if v.state = .settling ∧ focusSettled s then enterReady v false s else s := by
  rw [settleTest, hv]

section Sample
variable {v : Visit} {s : State} (hv : s.visit.current = some v) (z : Word) (q : Byte)

theorem focusSample_of_none (h : s.visit.current = none) : focusSample z q s = recordSample z q
    { s with out := owedMessages s.focus ++ s.out, focus := { s.focus with owed := false } } := by
  unfold focusSample
  dsimp only
  rw [payDebt_eq]
  simp only [h]

theorem lostState_eq (f : Focus) (o : List LinkMessage) : ∃ c js ps, lostState v s f o =
    { s with cmd := c, path := { s.path with jobs := js, waiters := ps }, focus := f, out := o } := by
  unfold lostState lostEvent
  split
  · obtain ⟨c, js, ps, h⟩ := postEvent_frame { s with focus := f, out := o } .focusLost (some v.wafer) (word v.entry)
      (wordOfInt v.zPred)
    exact ⟨c, js, ps, h⟩
  · exact ⟨s.cmd, s.path.jobs, s.path.waiters, rfl⟩

include hv

/-- The focus test of a visit, on a change that the focus unit reports (R97). -/
theorem focusSample_of_visit : ∃ f o, AfterLock v z q s f o ∧ focusSample z q s =
    if f.state ≠ s.focus.state ∨ f.unsettled ≠ s.focus.unsettled then settleTest (tracedState v z q s f o)
    else tracedState v z q s f o := by
  obtain ⟨f, o, hafter, hout⟩ := lockOutput_afterLock hv z q
  refine ⟨f, o, hafter, ?_⟩
  have hcurrent : (payDebt s).visit.current = some v := by rw [payDebt_eq]; exact hv
  have hlock : lockSample v z q (payDebt s) = lostState v s f o := by rw [lockSample_payDebt, hout, lostState]
  obtain ⟨c, js, ps, hlost⟩ := lostState_eq (v := v) (s := s) f o
  obtain ⟨ps', tr, handed, r, hrecord⟩ := recordSample_frame (lostState v s f o) z q
  have hstate : (tracedState v z q s f o).focus.state = f.state := by rw [tracedState, hrecord, hlost]
  have hflag : (tracedState v z q s f o).focus.unsettled = f.unsettled := by rw [tracedState, hrecord, hlost]
  have hbefore : (payDebt s).focus.state = s.focus.state := by rw [payDebt_eq]
  have hbeforeFlag : (payDebt s).focus.unsettled = s.focus.unsettled := by rw [payDebt_eq]
  unfold focusSample
  dsimp only
  rw [hcurrent]
  dsimp only
  rw [hlock, hbefore, hbeforeFlag]
  change (if (tracedState v z q s f o).focus.state ≠ _ ∨ (tracedState v z q s f o).focus.unsettled ≠ _ then _ else _) = _
  rw [hstate, hflag]
  rfl

/-- What a sample leaves with a visit in flight: `f` and `o` come from the lock, `p` is the state to which its event, if
any, is posted. -/
structure SampleLeaves (z : Word) (q : Byte) (s : State) (f : Focus) (o : List LinkMessage) (p : State)
    (visit : VisitUnit) (table : List Entry) (t : State) : Prop where
  frame : ∃ ps, t = { s with
    cmd := p.cmd
    path := { s.path with jobs := p.path.jobs, waiters := ps }
    visit := visit, table := table, focus := t.focus, report := t.report, out := o }
  recorded : ∃ x : State, x.focus = f ∧ x.report = s.report ∧ t.focus = (recordSample z q x).focus ∧
    t.report = (recordSample z q x).report

omit hv in
theorem tracedState_leaves {f : Focus} {o : List LinkMessage} {p : State}
    (hlost : ∃ ps, lostState v s f o =
      { s with cmd := p.cmd, path := { s.path with jobs := p.path.jobs, waiters := ps }, focus := f, out := o }) :
    SampleLeaves z q s f o p s.visit s.table (tracedState v z q s f o) := by
  obtain ⟨ps, hlost⟩ := hlost
  obtain ⟨ps', tr, handed, r, hrecord⟩ := recordSample_frame (lostState v s f o) z q
  refine ⟨⟨ps', ?_⟩, lostState v s f o, by rw [hlost], by rw [hlost], rfl, rfl⟩
  rw [tracedState, hrecord, hlost]

omit hv in
theorem lostState_of_loses {f : Focus} (hf : s.focus.state ≠ .lost ∧ f.state = .lost) (o : List LinkMessage) :
    ∃ ps, lostState v s f o = { s with
      cmd := (postEvent .focusLost (some v.wafer) (word v.entry) (wordOfInt v.zPred) s).cmd
      path := { s.path with
        jobs := (postEvent .focusLost (some v.wafer) (word v.entry) (wordOfInt v.zPred) s).path.jobs, waiters := ps }
      focus := f, out := o } := by
  obtain ⟨c, js, ps, h⟩ := postEvent_frame { s with focus := f, out := o } .focusLost (some v.wafer) (word v.entry)
    (wordOfInt v.zPred)
  obtain ⟨hcmd, hjobs⟩ := postEvent_congr (s := s) (t := { s with focus := f, out := o }) rfl rfl rfl rfl .focusLost
    (some v.wafer) (word v.entry) (wordOfInt v.zPred)
  refine ⟨ps, ?_⟩
  rw [← hcmd, ← hjobs, lostState, lostEvent, if_pos ⟨hf.2, hf.1⟩, h]

omit hv in
theorem lostState_of_not_loses {f : Focus} (hf : ¬ (s.focus.state ≠ .lost ∧ f.state = .lost)) (o : List LinkMessage) :
    lostState v s f o = { s with focus := f, out := o } := if_neg fun h => hf ⟨h.2, h.1⟩

omit hv in
/-- The visit becomes READY: the result timer starts and READY_TO_GRAB is posted (R99). -/
theorem enterReady_leaves {f : Focus} {o : List LinkMessage} (hf : ¬ (s.focus.state ≠ .lost ∧ f.state = .lost)) :
    SampleLeaves z q s f o (postEvent .readyToGrab (some v.wafer) (word v.entry) v.defectId s)
      { s.visit with current := some { v with state := .ready, predictedFocus := false, timer := paramNat s 9 } }
      (s.table.map fun e => if e.index = v.entry then { e with state := .ready } else e)
      (enterReady v false (tracedState v z q s f o)) := by
  obtain ⟨ps, tr, handed, r, hrecord⟩ := recordSample_frame { s with focus := f, out := o } z q
  have htraced : tracedState v z q s f o = _ := (congrArg (recordSample z q) (lostState_of_not_loses hf o)).trans hrecord
  obtain ⟨x, hx⟩ : ∃ x, x = setVisit { v with state := .ready, predictedFocus := false, timer := paramNat s 9 }
      (tracedState v z q s f o) := ⟨_, rfl⟩
  have henter : enterReady v false (tracedState v z q s f o) =
      postEvent .readyToGrab (some v.wafer) (word v.entry) v.defectId x := by
    have htimer : paramNat (tracedState v z q s f o) 9 = paramNat s 9 := by rw [htraced]; rfl
    rw [hx, enterReady, htimer]
  rw [htraced] at hx
  obtain ⟨c, js, ps', hframe⟩ := postEvent_frame x .readyToGrab (some v.wafer) (word v.entry) v.defectId
  obtain ⟨hcmd, hjobs⟩ := postEvent_congr (s := s) (t := x) (by rw [hx]; rfl) (by rw [hx]; rfl) (by rw [hx]; rfl)
    (by rw [hx]; rfl) .readyToGrab (some v.wafer) (word v.entry) v.defectId
  rw [henter]
  refine ⟨⟨ps', ?_⟩, { s with focus := f, out := o }, rfl, rfl, ?_, ?_⟩
  · rw [← hcmd, ← hjobs, hframe, hx]
    rfl
  · rw [postEvent_focus, hx, hrecord]
    rfl
  · rw [postEvent_report, hx, hrecord]
    rfl

/-- The focus test after a sample, by what the lock left (R97). -/
def settledState (v : Visit) (z : Word) (q : Byte) (s : State) (f : Focus) (o : List LinkMessage) : State :=
  if f.state ≠ s.focus.state ∨ f.unsettled ≠ s.focus.unsettled then settleTest (tracedState v z q s f o)
  else tracedState v z q s f o

omit hv in
theorem tracedState_units (f : Focus) (o : List LinkMessage) :
    (tracedState v z q s f o).visit = s.visit ∧ (tracedState v z q s f o).focus.state = f.state ∧
      (tracedState v z q s f o).focus.unsettled = f.unsettled := by
  obtain ⟨c, js, ps, hlost⟩ := lostState_eq (v := v) (s := s) f o
  obtain ⟨ps', tr, handed, r, hrecord⟩ := recordSample_frame (lostState v s f o) z q
  rw [tracedState, hrecord, hlost]
  exact ⟨rfl, rfl, rfl⟩

theorem settledState_of_readies {f : Focus} {o : List LinkMessage} (hsettling : v.state = .settling)
    (hlocked : f.state = .locked) (hsettled : f.unsettled = false)
    (hbefore : s.focus.state ≠ .locked ∨ s.focus.unsettled = true) :
    settledState v z q s f o = enterReady v false (tracedState v z q s f o) := by
  obtain ⟨hvisit, hstate, hflag⟩ := tracedState_units (v := v) (s := s) z q f o
  have hchange : f.state ≠ s.focus.state ∨ f.unsettled ≠ s.focus.unsettled := by
    rw [hlocked, hsettled]
    exact hbefore.imp (fun h => Ne.symm h) fun h => by rw [h]; exact Bool.false_ne_true
  refine (if_pos hchange).trans ((settleTest_of_visit (by rw [hvisit]; exact hv)).trans (if_pos ⟨hsettling, ?_⟩))
  rw [focusSettled, hstate, hflag, hlocked, hsettled]
  rfl

theorem settledState_of_not_readies {f : Focus} {o : List LinkMessage} (h : ¬ (v.state = .settling ∧ f.state = .locked ∧
    f.unsettled = false ∧ (s.focus.state ≠ .locked ∨ s.focus.unsettled = true))) :
    settledState v z q s f o = tracedState v z q s f o := by
  obtain ⟨hvisit, hstate, hflag⟩ := tracedState_units (v := v) (s := s) z q f o
  by_cases hchange : f.state ≠ s.focus.state ∨ f.unsettled ≠ s.focus.unsettled
  · refine (if_pos hchange).trans ((settleTest_of_visit (by rw [hvisit]; exact hv)).trans (if_neg ?_))
    rintro ⟨hsettling, hsettled⟩
    rw [focusSettled, hstate, hflag, Bool.and_eq_true, beq_iff_eq, Bool.not_eq_true'] at hsettled
    refine h ⟨hsettling, hsettled.1, hsettled.2, ?_⟩
    rw [hsettled.1, hsettled.2] at hchange
    exact hchange.imp Ne.symm fun h => by rwa [ne_comm, ne_eq, Bool.not_eq_false] at h
  · exact if_neg hchange

/-- A sample with a visit in flight (R97, R115 to R121). -/
theorem focusSample_leaves : ∃ f o, AfterLock v z q s f o ∧
    (Loses v z q s → SampleLeaves z q s f o
      (postEvent .focusLost (some v.wafer) (word v.entry) (wordOfInt v.zPred) s) s.visit s.table (focusSample z q s)) ∧
    (Readies v z q s → SampleLeaves z q s f o (postEvent .readyToGrab (some v.wafer) (word v.entry) v.defectId s)
      { s.visit with current := some { v with state := .ready, predictedFocus := false, timer := paramNat s 9 } }
      (s.table.map fun e => if e.index = v.entry then { e with state := .ready } else e) (focusSample z q s)) ∧
    (¬ Loses v z q s → ¬ Readies v z q s → SampleLeaves z q s f o s s.visit s.table (focusSample z q s)) := by
  obtain ⟨f, o, hafter, hsample⟩ := focusSample_of_visit hv z q
  have hstate : f.state = (lockTaken v z q s).state := by rw [hafter.frame]
  have hflag : f.unsettled = (lockTaken v z q s).unsettled := by rw [hafter.frame]
  have hsettled : focusSample z q s = settledState v z q s f o := hsample
  rw [hsettled, Loses, Readies, ← hstate, ← hflag]
  refine ⟨f, o, hafter, fun hloses => ?_, fun hready => ?_, fun hloses hready => ?_⟩
  · rw [settledState_of_not_readies hv z q fun h => by
      have hlocked := h.2.1
      rw [hloses.2] at hlocked
      cases hlocked]
    exact tracedState_leaves z q (lostState_of_loses hloses o)
  · obtain ⟨hsettling, hlocked, hflagged, hbefore⟩ := hready
    rw [settledState_of_readies hv z q hsettling hlocked hflagged hbefore]
    exact enterReady_leaves z q fun h => by
      rw [hlocked] at h
      exact absurd h.2 nofun
  · rw [settledState_of_not_readies hv z q hready]
    exact tracedState_leaves z q ⟨s.path.waiters, lostState_of_not_loses hloses o⟩

end Sample

end Sys2Proof.Machine
end

-- ==== Proofs: a SAMPLE that neither trips nor releases the guard (R115, R140) ====
section
namespace Sys2Proof.Machine

/-! ## The guard's count -/

theorem guardCounts_iff (s : State) (q : Byte) :
    guardCounts s q = true ↔ s.cmd.paramsValid = true ∧ param s 10 ≤ q.toNat := by
  rw [guardCounts, validSample, Bool.and_eq_true, decide_eq_true_iff]

theorem inBand_iff (s : State) (z : Word) : inBand s z = true ↔ param s 18 ≤ z.toInt ∧ z.toInt ≤ param s 19 := by
  rw [inBand, Bool.and_eq_true, decide_eq_true_iff, decide_eq_true_iff]

theorem guardCount_eq (z : Word) (q : Byte) (s : State) : guardCount z q s = { s with
    guard := if s.cmd.paramsValid = true ∧ param s 10 ≤ q.toNat then
      (if param s 18 ≤ z.toInt ∧ z.toInt ≤ param s 19 then
        { s.guard with inRun := min 255 (s.guard.inRun + 1), outRun := 0 }
      else { s.guard with outRun := min 255 (s.guard.outRun + 1), inRun := 0 })
      else s.guard } := by
  rw [guardCount]
  by_cases hcounts : guardCounts s q = true
  · rw [if_pos hcounts, if_pos ((guardCounts_iff s q).mp hcounts)]
    by_cases hband : inBand s z = true
    · rw [if_pos ((inBand_iff s z).mp hband), countRuns, if_pos hband]
      rfl
    · rw [if_neg (mt (inBand_iff s z).mpr hband), countRuns, if_neg hband]
      rfl
  · rw [if_neg hcounts, if_neg (mt (guardCounts_iff s q).mpr hcounts)]

theorem focusSample_handling (z : Word) (q : Byte) (s : State) : (focusSample z q s).handling = s.handling := by
  cases hv : s.visit.current with
  | none =>
    rw [focusSample_of_none z q hv]
    obtain ⟨ps, tr, handed, r, h⟩ := recordSample_frame
      { s with out := owedMessages s.focus ++ s.out, focus := { s.focus with owed := false } } z q
    rw [h]
  | some v =>
    obtain ⟨f, o, -, hloses, hreadies, hneither⟩ := focusSample_leaves hv z q
    have hleaves : ∃ p vu tb, SampleLeaves z q s f o p vu tb (focusSample z q s) := by
      by_cases hl : Loses v z q s
      · exact ⟨_, _, _, hloses hl⟩
      · by_cases hr : Readies v z q s
        · exact ⟨_, _, _, hreadies hr⟩
        · exact ⟨_, _, _, hneither hl hr⟩
    obtain ⟨p, vu, tb, ⟨ps, hframe⟩, -⟩ := hleaves
    rw [hframe]

/-! ## The lock after a sample, by its state before (R118 to R120) -/

section Lock
variable {v : Visit} {z : Word} {q : Byte} {s : State}

theorem lockTaken_accepted_list (h : acceptsSample s v.zPred z q = true) :
    (lockTaken v z q s).accepted = (s.focus.accepted ++ [z.toInt]).drop (s.focus.accepted.length + 1 - 4) := by
  rw [lockTaken_accepted h]
  rfl

theorem lockTaken_unaccepted_list (h : ¬ acceptsSample s v.zPred z q = true) :
    (lockTaken v z q s).accepted = s.focus.accepted := by
  rw [lockTaken_unaccepted h]
  exact (lockUnaccepted_frame _ _).2

theorem lockTaken_acquiring (h : s.focus.state = .acquiring) (ha : acceptsSample s v.zPred z q = true) :
    (paramNat s 12 ≤ s.focus.run + 1 → (lockTaken v z q s).state = .locked ∧ (lockTaken v z q s).unsettled = false) ∧
    (¬ paramNat s 12 ≤ s.focus.run + 1 →
      (lockTaken v z q s).state = .acquiring ∧ (lockTaken v z q s).run = s.focus.run + 1) := by
  rw [lockTaken_accepted ha]
  simp only [lockAccepted, h]
  exact ⟨fun henough => by rw [if_pos henough]; exact ⟨rfl, rfl⟩, fun hfew => by rw [if_neg hfew]; exact ⟨rfl, rfl⟩⟩

theorem lockTaken_lost (h : s.focus.state = .lost) (ha : acceptsSample s v.zPred z q = true) :
    (paramNat s 12 ≤ s.focus.run + 1 → (lockTaken v z q s).state = .locked ∧ (lockTaken v z q s).settle = 0 ∧
      ((lockTaken v z q s).unsettled = true ↔ paramNat s 13 ≠ 0)) ∧
    (¬ paramNat s 12 ≤ s.focus.run + 1 →
      (lockTaken v z q s).state = .lost ∧ (lockTaken v z q s).run = s.focus.run + 1) := by
  rw [lockTaken_accepted ha]
  simp only [lockAccepted, h]
  exact ⟨fun henough => by rw [if_pos henough]; exact ⟨rfl, rfl, bne_iff_ne⟩,
    fun hfew => by rw [if_neg hfew]; exact ⟨rfl, rfl⟩⟩

theorem lockTaken_broken (h : s.focus.state = .acquiring ∨ s.focus.state = .lost)
    (ha : ¬ acceptsSample s v.zPred z q = true) :
    (lockTaken v z q s).state = s.focus.state ∧ (lockTaken v z q s).run = 0 := by
  rw [lockTaken_unaccepted ha]
  rcases h with h | h <;> simp only [lockUnaccepted, h] <;> exact ⟨trivial, trivial⟩

theorem lockTaken_holdover (h : s.focus.state = .holdover) (ha : acceptsSample s v.zPred z q = true) :
    (lockTaken v z q s).state = .locked ∧ (lockTaken v z q s).settle = 0 ∧
      ((lockTaken v z q s).unsettled = true ↔ paramNat s 13 ≠ 0) := by
  rw [lockTaken_accepted ha]
  simp only [lockAccepted, h]
  exact ⟨trivial, trivial, bne_iff_ne⟩

theorem lockTaken_holdover_unaccepted (h : s.focus.state = .holdover) (ha : ¬ acceptsSample s v.zPred z q = true) :
    (paramNat s 14 ≤ s.focus.holdover + 1 → (lockTaken v z q s).state = .lost ∧ (lockTaken v z q s).run = 0) ∧
    (s.focus.holdover + 1 < paramNat s 14 →
      (lockTaken v z q s).state = .holdover ∧ (lockTaken v z q s).holdover = s.focus.holdover + 1) := by
  rw [lockTaken_unaccepted ha]
  simp only [lockUnaccepted, h]
  exact ⟨fun hlong => by rw [if_pos hlong]; exact ⟨rfl, rfl⟩,
    fun hshort => by rw [if_neg (Nat.not_le.mpr hshort)]; exact ⟨rfl, rfl⟩⟩

theorem lockTaken_locked (h : s.focus.state = .locked) (ha : acceptsSample s v.zPred z q = true) :
    (lockTaken v z q s).state = .locked ∧
    (s.focus.unsettled = true → (lockTaken v z q s).settle = s.focus.settle + 1 ∧
      ((lockTaken v z q s).unsettled = true ↔ s.focus.settle + 1 < paramNat s 13)) ∧
    (s.focus.unsettled = false → (lockTaken v z q s).unsettled = false) := by
  rw [lockTaken_accepted ha]
  simp only [lockAccepted, h]
  cases hu : s.focus.unsettled with
  | true =>
    rw [if_pos rfl]
    exact ⟨rfl, fun _ => ⟨rfl, decide_eq_true_iff⟩, nofun⟩
  | false =>
    rw [if_neg Bool.false_ne_true]
    exact ⟨h, nofun, fun _ => hu⟩

theorem lockTaken_locked_unaccepted (h : s.focus.state = .locked) (ha : ¬ acceptsSample s v.zPred z q = true) :
    (lockTaken v z q s).state = .holdover ∧ (lockTaken v z q s).unsettled = true ∧
      (lockTaken v z q s).holdover = 0 ∧ (lockTaken v z q s).settle = 0 := by
  rw [lockTaken_unaccepted ha]
  simp only [lockUnaccepted, h]
  exact ⟨trivial, trivial, trivial, trivial⟩

theorem lockTaken_others : (lockTaken v z q s).predicted = s.focus.predicted ∧ (lockTaken v z q s).map = s.focus.map ∧
    (lockTaken v z q s).seed = s.focus.seed ∧ (lockTaken v z q s).strobeHeight = s.focus.strobeHeight ∧
    (lockTaken v z q s).trace = s.focus.trace ∧ (lockTaken v z q s).traceHanded = s.focus.traceHanded := by
  rw [(lockTaken_frame v z q s).frame]
  exact ⟨rfl, rfl, rfl, rfl, rfl, rfl⟩

end Lock

/-- The focus unit after a sample is that of the lock, but for the debt, the output with its bounds, and the trace. -/
theorem focus_of_leaves {v : Visit} {z : Word} {q : Byte} {s : State} {f : Focus} {o : List LinkMessage} {p t : State}
    {vu : VisitUnit} {tb : List Entry} (hf : AfterLock v z q s f o) (h : SampleLeaves z q s f o p vu tb t) :
    t.focus = { lockTaken v z q s with
      owed := false, output := f.output, boundMin := f.boundMin, boundMax := f.boundMax
      trace := t.focus.trace, traceHanded := t.focus.traceHanded } := by
  obtain ⟨x, hx, -, hfocus, -⟩ := h.recorded
  obtain ⟨ps, tr, handed, r, hrecord⟩ := recordSample_frame x z q
  rw [hfocus, hrecord, hx, hf.frame]

/-- The trace after a sample, and the report queue (R135, R136). -/
theorem trace_of_leaves {v : Visit} {z : Word} {q : Byte} {s : State} {f : Focus} {o : List LinkMessage} {p t : State}
    {vu : VisitUnit} {tb : List Entry} (hf : AfterLock v z q s f o) (h : SampleLeaves z q s f o p vu tb t) :
    (s.focus.trace = none →
      t.focus.trace = none ∧ t.focus.traceHanded = s.focus.traceHanded ∧ t.report = s.report) ∧
    ∀ r, s.focus.trace = some r →
      (r.samples.length + 1 < 128 → t.focus.trace = some (sampled z q t.focus.state r) ∧
        t.focus.traceHanded = s.focus.traceHanded ∧ t.report = s.report) ∧
      (128 ≤ r.samples.length + 1 → t.focus.trace = none ∧ t.focus.traceHanded = true ∧ t.report = { s.report with
        queue := s.report.queue ++ [⟨.trace r.wafer, traceReportWords (sampled z q t.focus.state r)⟩] }) := by
  have hstate : t.focus.state = f.state := by rw [focus_of_leaves hf h, hf.frame]
  obtain ⟨-, -, -, -, htrace, hhanded⟩ := lockTaken_others (v := v) (z := z) (q := q) (s := s)
  obtain ⟨x, hx, hxr, hfocus, hreport⟩ := h.recorded
  have hxtrace : x.focus.trace = s.focus.trace := by rw [hx, hf.frame]; exact htrace
  have hxhanded : x.focus.traceHanded = s.focus.traceHanded := by rw [hx, hf.frame]; exact hhanded
  have hxstate : x.focus.state = t.focus.state := by rw [hx, hstate]
  refine ⟨fun hnone => ?_, fun r hr => ⟨fun hroom => ?_, fun hfull => ?_⟩⟩
  · rw [recordSample_of_none (hxtrace.trans hnone)] at hfocus hreport
    exact ⟨by rw [hfocus, hxtrace, hnone], by rw [hfocus, hxhanded], hreport.trans hxr⟩
  · rw [← hxstate]
    rw [recordSample_of_room (hxtrace.trans hr) z q hroom] at hfocus hreport
    exact ⟨by rw [hfocus], by rw [hfocus]; exact hxhanded, hreport.trans hxr⟩
  · have hne : (sampled z q x.focus.state r).samples ≠ [] := List.append_ne_nil_of_right_ne_nil _ nofun
    rw [← hxstate]
    rw [recordSample_of_full (hxtrace.trans hr) z q hfull, endTrace_of_samples rfl hne] at hfocus hreport
    exact ⟨by rw [hfocus, ringTest_focus], by rw [hfocus, ringTest_focus], 
      hreport.trans ((ringTest_report _).trans (congrArg (fun u : ReportUnit => { u with
        queue := u.queue ++ [(⟨.trace r.wafer, traceReportWords (sampled z q x.focus.state r)⟩ : Report)] }) hxr))⟩

/-- Settles O46. -/
theorem sampleTaken : Obligations.SampleTaken := by
  refine ⟨fun z q s hrun => ?guard, fun z q s => ?sample, fun e s w st hst hw => ?start, fun z q s h => ?none,
    fun z q s t h => ?trace⟩
  case guard =>
    intro valid inside g hnone
    have hcount : guardCount z q s = { s with guard := g } := guardCount_eq z q s
    refine exec_unit_idle (takeSample z q) rfl ?_ (noRunDue_of_handling hrun (focusSample_handling z q _))
    rw [takeSample, hcount, hnone]
  case start =>
    intro same starts
    have hiff : (traceMatches st e.roughClass && traceFree s) = true ↔ starts := by
      rw [Bool.and_eq_true, traceMatches_iff, traceFree_iff, and_assoc]
    rw [startTrace_of_wafer hst hw]
    exact ⟨fun h => if_pos (hiff.mpr h), fun h => if_neg (mt hiff.mp h)⟩
  case none => exact ⟨recordSample_of_none h z q, endTrace_of_none h⟩
  case trace =>
    intro u
    exact ⟨recordSample_of_room h z q, recordSample_of_full h z q, endTrace_of_empty h, endTrace_of_samples h⟩
  case sample =>
    intro valid f first
    refine ⟨fun hv => focusSample_of_none z q hv, fun v hv => ?_⟩
    intro taken enough t now readies loses posted drives goal
    obtain ⟨g, o, hafter, hlost, hready, hneither⟩ := focusSample_leaves hv z q
    have hmerge : ∃ p vu tb, SampleLeaves z q s g o p vu tb t := by
      by_cases hl : Loses v z q s
      · exact ⟨_, _, _, hlost hl⟩
      · by_cases hr : Readies v z q s
        · exact ⟨_, _, _, hready hr⟩
        · exact ⟨_, _, _, hneither hl hr⟩
    obtain ⟨p, vu', tb', hsample⟩ := hmerge
    have hnow : now = _ := focus_of_leaves hafter hsample
    obtain ⟨htraceNone, htraceSome⟩ := trace_of_leaves hafter hsample
    clear hsample
    have hstate : now.state = (lockTaken v z q s).state := congrArg (·.state) hnow
    have hflag : now.unsettled = (lockTaken v z q s).unsettled := congrArg (·.unsettled) hnow
    have hrun : now.run = (lockTaken v z q s).run := congrArg (·.run) hnow
    have hsettle : now.settle = (lockTaken v z q s).settle := congrArg (·.settle) hnow
    have hholdover : now.holdover = (lockTaken v z q s).holdover := congrArg (·.holdover) hnow
    have haccepted : now.accepted = (lockTaken v z q s).accepted := congrArg (·.accepted) hnow
    have hloses : Loses v z q s ↔ loses := by
      rw [Loses, ← hstate]
    have hreadies : Readies v z q s ↔ readies := by
      rw [Readies, ← hstate, ← hflag]
    have hdrives : Drives v z q s ↔ drives := by
      rw [Drives, ← hstate]
    have hgoal : goalOf v z q s = goal := by
      rw [goalOf, ← hstate, ← haccepted]
    have hleaves : ∃ vu tb, SampleLeaves z q s g o posted vu tb t ∧
        (readies → vu = { s.visit with current := some { v with
            state := .ready, predictedFocus := false, timer := paramNat s 9 } } ∧
          tb = s.table.map fun e => if e.index = v.entry then { e with state := .ready } else e) ∧
        (¬ readies → vu = s.visit ∧ tb = s.table) := by
      by_cases hl : loses
      · have hposted : posted = _ := if_pos hl
        have hnot : ¬ readies := fun hr => FocusState.noConfusion (hl.2.symm.trans hr.2.1)
        exact ⟨_, _, hposted ▸ hlost (hloses.mpr hl), fun hr => absurd hr hnot, fun _ => ⟨rfl, rfl⟩⟩
      · by_cases hr : readies
        · have hposted : posted = _ := (if_neg hl).trans (if_pos hr)
          exact ⟨_, _, hposted ▸ hready (hreadies.mpr hr), fun _ => ⟨rfl, rfl⟩, fun hnot => absurd hr hnot⟩
        · have hposted : posted = s := (if_neg hl).trans (if_neg hr)
          refine ⟨_, _, ?_, fun h => absurd h hr, fun _ => ⟨rfl, rfl⟩⟩
          rw [hposted]
          exact hneither (mt hloses.mp hl) (mt hreadies.mp hr)
    obtain ⟨vu, tb, ⟨⟨ps, hframe⟩, -⟩, hvready, hvnot⟩ := hleaves
    have hvisit : t.visit = vu := congrArg (·.visit) hframe
    have htable : t.table = tb := congrArg (·.table) hframe
    have hout : t.out = o := congrArg (·.out) hframe
    have hwaiters : t.path.waiters = ps := congrArg (·.path.waiters) hframe
    have htaken : taken → acceptsSample s v.zPred z q = true := (acceptsSample_iff s v.zPred z q).mpr
    have hspoilt : ¬ taken → ¬ acceptsSample s v.zPred z q = true := mt (acceptsSample_iff s v.zPred z q).mp
    obtain ⟨hpredicted, hmap, hseed, hstrobe, -, -⟩ := lockTaken_others (v := v) (z := z) (q := q) (s := s)
    rw [hstate, hflag, hrun, hsettle, hholdover, haccepted]
    refine ⟨hframe.trans (by rw [hvisit, htable, hout, hwaiters]), fun hr => ?_, fun hr => ?_,
      fun ht => lockTaken_accepted_list (htaken ht), fun ht => lockTaken_unaccepted_list (hspoilt ht),
      fun hs ht => (lockTaken_acquiring hs (htaken ht)).1, fun hs ht => (lockTaken_acquiring hs (htaken ht)).2,
      fun hs ht => (lockTaken_lost hs (htaken ht)).1, fun hs ht => (lockTaken_lost hs (htaken ht)).2,
      fun hs ht => lockTaken_broken hs (hspoilt ht), fun hs ht => lockTaken_holdover hs (htaken ht),
      fun hs ht => (lockTaken_holdover_unaccepted hs (hspoilt ht)).1,
      fun hs ht => (lockTaken_holdover_unaccepted hs (hspoilt ht)).2, fun hs ht => lockTaken_locked hs (htaken ht),
      fun hs ht => lockTaken_locked_unaccepted hs (hspoilt ht), congrArg (·.owed) hnow,
      (congrArg (·.predicted) hnow).trans hpredicted, (congrArg (·.map) hnow).trans hmap,
      (congrArg (·.seed) hnow).trans hseed, (congrArg (·.strobeHeight) hnow).trans hstrobe, fun hd => ?_, fun hd => ?_,
      htraceNone, fun r hr => ?_⟩
    · obtain ⟨hvu, htb⟩ := hvready hr
      exact ⟨hvisit.trans hvu, htable.trans htb⟩
    · obtain ⟨hvu, htb⟩ := hvnot hr
      exact ⟨hvisit.trans hvu, htable.trans htb⟩
    · obtain ⟨houtput, hmin, hmax, hsent⟩ := hafter.drives (hdrives.mpr hd)
      rw [hgoal] at houtput hsent
      exact ⟨(congrArg (·.output) hnow).trans houtput, (congrArg (·.boundMin) hnow).trans hmin,
        (congrArg (·.boundMax) hnow).trans hmax, hout.trans hsent⟩
    · obtain ⟨houtput, hmin, hmax, hsent⟩ := hafter.holds (mt hdrives.mp hd)
      exact ⟨(congrArg (·.output) hnow).trans houtput, (congrArg (·.boundMin) hnow).trans hmin,
        (congrArg (·.boundMax) hnow).trans hmax, hout.trans hsent⟩
    · intro r'
      have hlength : r'.samples.length = r.samples.length + 1 := length_sampled z q (lockTaken v z q s).state r
      have hjoined : sampled z q t.focus.state r = r' := congrArg (sampled z q · r) hstate
      have htrace := htraceSome r hr
      rw [hjoined] at htrace
      rw [hlength]
      exact htrace

end Sys2Proof.Machine
end

-- ==== Proofs: pending causes stay pending while a visit ends (R112, R143, R194) ====
section
namespace Sys2Proof.Machine

/-- Of `s`, each cause that is pending stays so in `t`; the visit in flight and the GUARD hold are the same. -/
structure TripKept (s t : State) : Prop where
  causes : ∀ k, s.cmd.causes.getLsbD k = true → t.cmd.causes.getLsbD k = true
  current : t.visit.current = s.visit.current
  guardHold : t.visit.hold.guard = s.visit.hold.guard

theorem TripKept.refl (s : State) : TripKept s s := ⟨fun _ h => h, rfl, rfl⟩

theorem TripKept.trans {s t u : State} (h : TripKept s t) (k : TripKept t u) : TripKept s u :=
  ⟨fun i hi => k.causes i (h.causes i hi), k.current.trans h.current, k.guardHold.trans h.guardHold⟩

/-- An operation on other fields than these. -/
theorem TripKept.of_eq {s t : State} (hcmd : t.cmd = s.cmd) (hvisit : t.visit = s.visit) : TripKept s t :=
  ⟨fun _ h => by rwa [hcmd], by rw [hvisit], by rw [hvisit]⟩

/-- A step may be taken or not. -/
theorem TripKept.ite {p : Prop} [Decidable p] {s t u : State} (ht : TripKept s t) (hu : TripKept s u) :
    TripKept s (if p then t else u) := by
  split
  · exact ht
  · exact hu

/-- Posting an event makes its category pending, and no other one stops being so (R194). -/
theorem postEvent_causes (s : State) (k : EventKind) (w : Option Nat) (a b : Word) :
    (postEvent k w a b s).cmd.causes = s.cmd.causes ||| k.category.bit := by
  unfold postEvent
  dsimp only
  split
  · rfl
  · unfold writeEvent
    split
    · rfl
    · rw [pushJob_cmd]
      rfl

section
variable (s : State)

theorem postEvent_tripKept (k : EventKind) (w : Option Nat) (a b : Word) : TripKept s (postEvent k w a b s) :=
  ⟨fun i hi => by rw [postEvent_causes, BitVec.getLsbD_or, hi, Bool.true_or], by simp, by simp⟩

theorem ringTest_tripKept : TripKept s (ringTest s) := .of_eq (by simp) (by simp)

theorem joinReport_tripKept (r : Report) : TripKept s (joinReport r s) :=
  .trans (t := { s with report := { s.report with queue := s.report.queue ++ [r] } }) (.of_eq rfl rfl)
    (ringTest_tripKept _)

theorem updLot_tripKept (run : Nat) (f : Lot → Lot) : TripKept s (updLot run f s) := .of_eq rfl rfl

theorem wantPlan_tripKept : TripKept s (wantPlan s) := .of_eq rfl rfl

theorem reloadIfDue_tripKept : TripKept s (reloadIfDue s) := .ite (.of_eq rfl rfl) (.refl s)

theorem endLot_tripKept (l : Lot) : TripKept s (endLot l s) :=
  .trans (t := { clearSeed l.run s with
      wafers := s.wafers.map fun o => o.filter fun w => w.run != l.run
      lots := leaveQueue l.run s.lots }) (.of_eq rfl rfl)
    ((postEvent_tripKept _ _ _ _ _).trans ((wantPlan_tripKept _).trans (reloadIfDue_tripKept _)))

theorem requestTest_tripKept (run : Nat) : TripKept s (requestTest run s) := by
  unfold requestTest
  split
  · exact .refl s
  refine .ite ?_ (.refl s)
  split
  · exact .ite (.refl s) (.trans (t := updLot run (fun l => { l with reportRequested := true }) s) (.of_eq rfl rfl)
      (joinReport_tripKept _ _))
  · exact .ite (endLot_tripKept s _) (.refl s)

theorem closingTest_tripKept (run : Nat) : TripKept s (closingTest run s) := by
  unfold closingTest
  refine .trans ?_ (requestTest_tripKept _ _)
  split
  · exact .refl s
  · exact .ite (.of_eq rfl rfl) (.refl s)

theorem closingTestOf_tripKept (i : Nat) : TripKept s (closingTestOf i s) := by
  unfold closingTestOf
  split
  · exact .refl s
  · exact closingTest_tripKept s _

theorem runPlanner_tripKept : TripKept s (runPlanner s) := by
  unfold runPlanner
  refine .ite ?_ (.refl s)
  split
  · unfold issue feedPhase
    exact .ite (.of_eq rfl rfl) (.of_eq rfl rfl)
  · exact .of_eq rfl rfl

theorem finish_tripKept : TripKept s (finish s) :=
  .ite (.trans (t := { s with handling := { s.handling with runDue := false } }) (.of_eq rfl rfl) (runPlanner_tripKept _))
    (.refl s)

theorem planBeforeHold_tripKept : TripKept s (planBeforeHold s) :=
  .trans (t := { s with choices := s.choices + 1 }) (.of_eq rfl rfl) (.ite (runPlanner_tripKept _) (.refl _))

theorem holdByWatch_tripKept (run n : Nat) : TripKept s (holdByWatch run n s) := by
  unfold holdByWatch
  split
  · exact .refl s
  · exact .ite (.trans (t := setLotState run .held s) (.of_eq rfl rfl) (postEvent_tripKept _ _ _ _ _)) (.refl s)

theorem fireWatch_tripKept (run i n c : Nat) (w : Watch) : TripKept s (fireWatch run i n c w s) := by
  unfold fireWatch
  exact .ite ((postEvent_tripKept s _ _ _ _).trans (holdByWatch_tripKept _ _ _)) (postEvent_tripKept s _ _ _ _)

theorem fireWatches_tripKept (run i : Nat) (o : Option WaferOutcome) (counts : List Nat) (n : Nat)
    (ws : List Watch) (rs : List Nat) : TripKept s (fireWatches run i o counts n ws rs s) := by
  induction ws generalizing s n rs with
  | nil => unfold fireWatches; exact .refl s
  | cons w ws ih =>
    cases rs with
    | nil => unfold fireWatches; exact .refl s
    | cons r rs =>
      unfold fireWatches
      exact .trans (.ite (fireWatch_tripKept s _ _ _ _ _) (.refl s)) (ih _ _ _)

theorem reportWafer_tripKept (i : Nat) (w : Wafer) (a : WaferAcc) (l : Lot) :
    TripKept s (reportWafer i w a l s) := by
  unfold reportWafer
  dsimp only
  refine ((TripKept.trans ?_ (updLot_tripKept _ _ _)).trans (joinReport_tripKept _ _)).trans
    (fireWatches_tripKept _ _ _ _ _ _ _ _)
  exact .ite (planBeforeHold_tripKept s) (.refl s)

theorem buildWaferReport_tripKept (i : Nat) : TripKept s (buildWaferReport i s) := by
  unfold buildWaferReport
  split
  · split
    · exact .ite (.refl s) (reportWafer_tripKept s _ _ _ _)
    · exact .refl s
  · exact .refl s

theorem handOver_tripKept (e : Entry) : TripKept s (handOver e s) := .of_eq rfl rfl

theorem handOverAt_tripKept (i : Nat) : TripKept s (handOverAt i s) := by
  unfold handOverAt
  split
  · exact .refl s
  · exact handOver_tripKept s _

theorem skipQueued_tripKept (i : Nat) : TripKept s (skipQueued i s) := by
  unfold skipQueued
  generalize queuedList s i = es
  induction es generalizing s with
  | nil => exact .refl s
  | cons e es ih =>
    have hretired : TripKept s (retireEntry .skipped e s) :=
      .trans (t := updEntry e.index (fun x => { x with state := .skipped }) s) (.of_eq rfl rfl) (handOverAt_tripKept _ _)
    exact hretired.trans (ih _)

theorem releaseAlign_tripKept (i : Nat) : TripKept s (releaseAlign i s) := ⟨fun _ h => h, rfl, rfl⟩

theorem settleHome_tripKept (i : Nat) : TripKept s (settleHome i s) := by
  unfold settleHome
  split
  · exact .refl s
  · refine .ite ?_ (.refl s)
    exact .trans (t := updWafer i (fun w => { w with phase := .returned }) s) (.of_eq rfl rfl)
      ((postEvent_tripKept _ _ _ _ _).trans (closingTestOf_tripKept _ _))

theorem enterReviewDone_tripKept (i : Nat) (o : WaferOutcome) : TripKept s (enterReviewDone i o s) := by
  have hended : TripKept s (releaseAlign i (dropAttempt i (dropPrealign i (updWafer i (endPhase .reviewDone o) s)))) :=
    ⟨fun _ h => h, rfl, rfl⟩
  refine (hended.trans (closingTestOf_tripKept _ i)).trans (.trans ?_ (settleHome_tripKept _ i))
  exact (skipQueued_tripKept _ i).trans ((buildWaferReport_tripKept _ i).trans (.of_eq rfl rfl))

/-! ## Verdicts and the end of a visit without a result -/

theorem acceptTransform_tripKept (i : Nat) (w : Wafer) (t : Transform) : TripKept s (acceptTransform i w t s) := by
  unfold acceptTransform
  dsimp only
  have hposted := postEvent_tripKept (updWafer i (fun w => { w with
    transform := some t, drift := .zero
    align := { emptied .none w.align with lastVerdict := some .accepted }
    phase := if w.align.kind = .first ∧ w.phase = .aligning then .reviewing else w.phase }) s)
    .alignAccepted (some i) (wordOfInt t.a) (wordOfInt t.b)
  have hwafer := fun f => (TripKept.of_eq rfl rfl : TripKept s (updWafer i f s))
  exact .ite (((hwafer _).trans hposted).trans (releaseAlign_tripKept _ i)) ((hwafer _).trans hposted)

theorem refuseAttempt_tripKept (i : Nat) (w : Wafer) (v : Verdict) : TripKept s (refuseAttempt i w v s) := by
  unfold refuseAttempt
  dsimp only
  have hposted : ∀ f a b, TripKept s (postEvent .alignRefused (some i) a b (updWafer i f s)) := fun f a b =>
    .trans (t := updWafer i f s) (.of_eq rfl rfl) (postEvent_tripKept _ _ _ _ _)
  refine .ite (hposted _ _ _) ?_
  have hreleased : ∀ f a b, TripKept s (if w.align.kind = .realign then
      releaseAlign i (postEvent .alignRefused (some i) a b (updWafer i f s))
      else postEvent .alignRefused (some i) a b (updWafer i f s)) := fun f a b =>
    .ite ((hposted f a b).trans (releaseAlign_tripKept _ i)) (hposted f a b)
  exact .ite ((hreleased _ _ _).trans (enterReviewDone_tripKept _ _ _)) (hreleased _ _ _)

theorem verdictIfWaiting_tripKept (i : Nat) : TripKept s (verdictIfWaiting i s) := by
  unfold verdictIfWaiting
  split
  · exact .refl s
  refine .ite ?_ (.refl s)
  unfold giveVerdict
  split
  · exact .refl s
  split
  · exact acceptTransform_tripKept s _ _ _
  · exact refuseAttempt_tripKept s _ _ _

theorem completeAbort_tripKept (i : Nat) : TripKept s (completeAbort i s) := by
  unfold completeAbort
  split
  · exact .refl s
  · exact .ite (enterReviewDone_tripKept s _ _) (.refl s)

theorem handOverStep_tripKept (i : Nat) : TripKept s (handOverStep i s) := by
  unfold handOverStep
  split
  · exact .refl s
  · exact .ite (handOver_tripKept s _) (.refl s)

theorem endTrace_tripKept : TripKept s (endTrace s) := by
  unfold endTrace
  split
  · exact .refl s
  · exact .ite (.of_eq rfl rfl) (.trans (t := { s with focus := { s.focus with trace := none, traceHanded := true } })
      (.of_eq rfl rfl) (joinReport_tripKept _ _))

end

/-- With GUARD in the hold set the dispatcher makes no take (R92). -/
theorem dispatch_of_guardHold {s : State} (h : s.visit.hold.guard = true) : dispatch s = s := by
  refine dispatch_of_none (dispatchWafer_eq_none_of fun i hi => ?_)
  obtain ⟨-, hhold, -⟩ := (dispatchWafer_eq_some_iff s i).mp hi
  rw [hhold] at h
  cases h

/-- A visit that ends without a result under the GUARD hold: none begins, and no cause that is pending goes. -/
structure TripEnds (s t : State) : Prop where
  causes : ∀ k, s.cmd.causes.getLsbD k = true → t.cmd.causes.getLsbD k = true
  current : t.visit.current = none
  guardHold : t.visit.hold.guard = true

theorem TripEnds.of_tripKept {s t u : State} (h : TripEnds s t) (k : TripKept t u) : TripEnds s u :=
  ⟨fun i hi => k.causes i (h.causes i hi), k.current.trans h.current, k.guardHold.trans h.guardHold⟩

theorem endVisit_tripEnds {s : State} (v : Visit) (h : s.visit.hold.guard = true) : TripEnds s (endVisit v none s) := by
  have hcleared : TripEnds s (focusIdle { s with visit := { s.visit with current := none } }) := ⟨fun _ hk => hk, rfl, h⟩
  have hended : TripEnds s (completeAbort v.wafer <| verdictIfWaiting v.wafer <| handOverStep v.entry <|
      focusEnd { s with visit := { s.visit with current := none } }) :=
    (hcleared.of_tripKept (endTrace_tripKept _)).of_tripKept ((handOverStep_tripKept _ _).trans
      ((verdictIfWaiting_tripKept _ _).trans (completeAbort_tripKept _ _)))
  have hall : endVisit v none s = dispatch (completeAbort v.wafer <| verdictIfWaiting v.wafer <| handOverStep v.entry <|
      focusEnd { s with visit := { s.visit with current := none } }) := rfl
  rw [hall, dispatch_of_guardHold hended.guardHold]
  exact hended

theorem haltMove_visit (s : State) : (haltMove s).cmd = s.cmd ∧ (haltMove s).visit.hold = s.visit.hold := by
  unfold haltMove
  split <;> exact ⟨rfl, rfl⟩

theorem tripVisit_tripEnds {s : State} (v : Visit) (h : s.visit.hold.guard = true) : TripEnds s (tripVisit v s) := by
  obtain ⟨hcmd, hhold⟩ := haltMove_visit s
  have hend : ∀ f, TripEnds s (endVisit v none (updEntry v.entry f (haltMove s))) := fun f => by
    have hguard : (updEntry v.entry f (haltMove s)).visit.hold.guard = true := (congrArg (·.guard) hhold).trans h
    obtain ⟨hcauses, hcurrent, hhold'⟩ := endVisit_tripEnds v hguard
    refine ⟨fun k hk => hcauses k ?_, hcurrent, hhold'⟩
    have hsame : (updEntry v.entry f (haltMove s)).cmd = s.cmd := hcmd
    rwa [hsame]
  unfold tripVisit
  split
  · exact hend _
  · exact hend _

/-- A HARD trip holds the dispatcher and ends a visit in flight (R112, R143). -/
theorem hardTripActions_tripEnds (s : State) : TripEnds s (hardTripActions s) := by
  unfold hardTripActions
  dsimp only
  split
  case h_1 hnone => exact ⟨fun _ hk => hk, hnone, rfl⟩
  case h_2 v _ =>
    obtain ⟨hcauses, hcurrent, hhold⟩ := tripVisit_tripEnds (s := { s with
      visit := { s.visit with hold := { s.visit.hold with guard := true } } }) v rfl
    exact ⟨hcauses, hcurrent, hhold⟩

/-- The focus unit's part of a sample: no cause that is pending goes, and a visit in flight stays so, or none is. -/
theorem focusSample_tripKept (z : Word) (q : Byte) (s : State) :
    (∀ k, s.cmd.causes.getLsbD k = true → (focusSample z q s).cmd.causes.getLsbD k = true) ∧
    (focusSample z q s).visit.hold = s.visit.hold ∧ (focusSample z q s).visit.move = s.visit.move ∧
    ((focusSample z q s).visit.current.map fun v => (v.entry, v.wafer, v.moveTag)) =
      (s.visit.current.map fun v => (v.entry, v.wafer, v.moveTag)) := by
  cases hv : s.visit.current with
  | none =>
    rw [focusSample_of_none z q hv]
    obtain ⟨ps, tr, handed, r, h⟩ := recordSample_frame
      { s with out := owedMessages s.focus ++ s.out, focus := { s.focus with owed := false } } z q
    rw [h]
    exact ⟨fun _ hk => hk, rfl, rfl, congrArg _ hv⟩
  | some v =>
    obtain ⟨f, o, -, hloses, hreadies, hneither⟩ := focusSample_leaves hv z q
    by_cases hl : Loses v z q s
    · obtain ⟨⟨ps, hframe⟩, -⟩ := hloses hl
      rw [hframe]
      exact ⟨(postEvent_tripKept s _ _ _ _).causes, rfl, rfl, congrArg _ hv⟩
    · by_cases hr : Readies v z q s
      · obtain ⟨⟨ps, hframe⟩, -⟩ := hreadies hr
        rw [hframe]
        exact ⟨(postEvent_tripKept s _ _ _ _).causes, rfl, rfl, rfl⟩
      · obtain ⟨⟨ps, hframe⟩, -⟩ := hneither hl hr
        rw [hframe]
        exact ⟨fun _ hk => hk, rfl, rfl, congrArg _ hv⟩

/-- While the guard holds the output, a sample sends no more than an owed FOCUS_SET (R125, R137). -/
theorem focusSample_out_of_held {s : State} (h : s.guard.state ≠ .normal) (z : Word) (q : Byte) :
    (focusSample z q s).out = owedMessages s.focus ++ s.out := by
  cases hv : s.visit.current with
  | none =>
    rw [focusSample_of_none z q hv]
    obtain ⟨ps, tr, handed, r, h⟩ := recordSample_frame
      { s with out := owedMessages s.focus ++ s.out, focus := { s.focus with owed := false } } z q
    rw [h]
  | some v =>
    obtain ⟨f, o, hafter, hloses, hreadies, hneither⟩ := focusSample_leaves hv z q
    have ho : o = owedMessages s.focus ++ s.out := (hafter.holds fun hd => h hd.2).2.2.2
    have hleaves : ∃ p vu tb, SampleLeaves z q s f o p vu tb (focusSample z q s) := by
      by_cases hl : Loses v z q s
      · exact ⟨_, _, _, hloses hl⟩
      · by_cases hr : Readies v z q s
        · exact ⟨_, _, _, hreadies hr⟩
        · exact ⟨_, _, _, hneither hl hr⟩
    obtain ⟨p, vu, tb, ⟨ps, hframe⟩, -⟩ := hleaves
    rw [hframe, ho]

end Sys2Proof.Machine
end

-- ==== Proofs: the height guard trips and releases (R140 to R143) ====
section
namespace Sys2Proof.Machine

/-! ## What a sample makes the guard do -/

section Actions
variable {z : Word} {q : Byte} {s : State} (hcounts : s.cmd.paramsValid = true ∧ param s 10 ≤ q.toNat)
include hcounts

theorem guardAction_of_inside (hin : param s 18 ≤ z.toInt ∧ z.toInt ≤ param s 19) : guardAction z q s =
    if s.guard.state = .softTripped ∧ guardFilter s ≤ s.guard.inRun then .release else .none :=
  (if_pos ((guardCounts_iff s q).mpr hcounts)).trans (if_pos ((inBand_iff s z).mpr hin))

theorem guardAction_of_outside (hout : ¬ (param s 18 ≤ z.toInt ∧ z.toInt ≤ param s 19)) : guardAction z q s =
    if guardFilter s ≤ s.guard.outRun then tripAction (guardHard s) s.guard.state else .none :=
  (if_pos ((guardCounts_iff s q).mpr hcounts)).trans (if_neg (mt (inBand_iff s z).mp hout))

end Actions

theorem guardAction_of_not_counts {z : Word} {q : Byte} {s : State}
    (h : ¬ (s.cmd.paramsValid = true ∧ param s 10 ≤ q.toNat)) : guardAction z q s = .none :=
  if_neg (mt (guardCounts_iff s q).mp h)

theorem tripAction_eq_none_iff (hard : Bool) (st : GuardState) :
    tripAction hard st = .none ↔ st = .hardTripped ∨ (st = .softTripped ∧ hard = false) := by
  cases hard <;> cases st <;> simp [tripAction]

theorem guardHard_iff (s : State) : guardHard s = true ↔ param s 21 = 1 := beq_iff_eq

/-- The state in which the two units take a sample that trips or releases: with a visit in flight a free choice is
drawn (log 10). -/
def drawnState (s : State) : State :=
  { s with choices := if s.visit.current = none then s.choices else s.choices + 1 }

/-- The guard part takes the sample last, or, with a visit in flight, perhaps first (R141). -/
theorem inEitherOrder_cases (f g : State → State) (s : State) : inEitherOrder f g s = g (f (drawnState s)) ∨
    (s.visit.current ≠ none ∧ inEitherOrder f g s = f (g (drawnState s))) := by
  cases hv : s.visit.current with
  | none =>
    have hnone : ¬ s.visit.current.isSome = true := by rw [hv]; exact Bool.false_ne_true
    have hdrawn : drawnState s = s := by rw [drawnState, if_pos hv]
    rw [hdrawn]
    exact .inl (if_neg hnone)
  | some v =>
    have hsome : s.visit.current.isSome = true := by rw [hv]; rfl
    have hdrawn : drawnState s = { s with choices := s.choices + 1 } := by
      rw [drawnState, if_neg fun h => Option.some_ne_none v (hv.symm.trans h)]
    rw [hdrawn]
    by_cases hfirst : Config.guardFirst s.choices = true
    · exact .inr ⟨nofun, (if_pos hsome).trans (if_pos hfirst)⟩
    · exact .inl ((if_pos hsome).trans (if_neg hfirst))

/-- The guard's part of a sample that trips. -/
def tripPart (hard : Bool) (z : Word) (x : State) : State :=
  let y := postEvent .guardTrip (stageWafer x) (word (if hard then 2 else 1)) z x
  if hard then hardTripActions y else y

theorem tripPart_hard (z : Word) (x : State) : tripPart true z x =
    hardTripActions (postEvent .guardTrip (stageWafer x) (word 2) z x) := rfl

theorem tripPart_soft (z : Word) (x : State) : tripPart false z x =
    postEvent .guardTrip (stageWafer x) (word 1) z x := rfl

theorem tripPart_keeps (hard : Bool) (z : Word) (x : State) : Keeps x (tripPart hard z x) := by
  cases hard with
  | false => exact postEvent_keeps x _ _ _ _
  | true => exact (postEvent_keeps x _ _ _ _).trans (hardTripActions_keeps _)

theorem tripPart_causes (hard : Bool) (z : Word) (x : State) : (tripPart hard z x).cmd.causes.getLsbD 0 = true ∧
    ∀ k, x.cmd.causes.getLsbD k = true → (tripPart hard z x).cmd.causes.getLsbD k = true := by
  have hposted : ∀ n, (postEvent .guardTrip (stageWafer x) n z x).cmd.causes.getLsbD 0 = true := fun n => by
    rw [postEvent_causes, BitVec.getLsbD_or, Bool.or_eq_true]
    exact .inr rfl
  cases hard with
  | false => exact ⟨hposted _, (postEvent_tripKept x _ _ _ _).causes⟩
  | true =>
    exact ⟨(hardTripActions_tripEnds _).causes 0 (hposted _), fun k hk =>
      (hardTripActions_tripEnds _).causes k ((postEvent_tripKept x _ _ _ _).causes k hk)⟩

/-- What a sample that trips leaves, whichever of the two units takes it first: `u` has the guard's new state. -/
structure Tripped (hard : Bool) (u t : State) : Prop where
  keeps : Keeps u t
  cause : t.cmd.causes.getLsbD 0 = true
  hardTrip : hard = true → t.visit.hold.guard = true ∧ t.visit.current = none
  softTrip : hard = false → t.handling = u.handling ∧ t.visit.hold = u.visit.hold ∧ t.visit.move = u.visit.move ∧
    (t.visit.current.map fun v => (v.entry, v.wafer, v.moveTag)) =
      (u.visit.current.map fun v => (v.entry, v.wafer, v.moveTag)) ∧
    t.out = owedMessages u.focus ++ u.out

theorem tripped_of_guardLast (hard : Bool) {u : State} (hheld : u.guard.state ≠ .normal) (z : Word) (q : Byte) :
    Tripped hard u (tripPart hard z (focusSample z q u)) where
  keeps := (focusSample_keeps u z q).trans (tripPart_keeps hard z _)
  cause := (tripPart_causes hard z _).1
  hardTrip := by
    rintro rfl
    exact ⟨(hardTripActions_tripEnds _).guardHold, (hardTripActions_tripEnds _).current⟩
  softTrip := by
    rintro rfl
    obtain ⟨-, hhold, hmove, hcurrent⟩ := focusSample_tripKept z q u
    rw [tripPart_soft, postEvent_handling, postEvent_visit, postEvent_out]
    exact ⟨focusSample_handling z q u, hhold, hmove, hcurrent, focusSample_out_of_held hheld z q⟩

theorem tripped_of_guardFirst (hard : Bool) {u : State} (hheld : u.guard.state ≠ .normal) (z : Word) (q : Byte) :
    Tripped hard u (focusSample z q (tripPart hard z u)) where
  keeps := (tripPart_keeps hard z u).trans (focusSample_keeps _ z q)
  cause := (focusSample_tripKept z q _).1 0 (tripPart_causes hard z u).1
  hardTrip := by
    rintro rfl
    obtain ⟨-, hhold, -, hcurrent⟩ := focusSample_tripKept z q (tripPart true z u)
    refine ⟨(congrArg (·.guard) hhold).trans (hardTripActions_tripEnds _).guardHold, Option.map_eq_none_iff.mp (hcurrent.trans ?_)⟩
    exact congrArg _ (hardTripActions_tripEnds (postEvent .guardTrip (stageWafer u) (word 2) z u)).current
  softTrip := by
    rintro rfl
    obtain ⟨-, hhold, hmove, hcurrent⟩ := focusSample_tripKept z q (tripPart false z u)
    have hguard : (tripPart false z u).guard.state ≠ .normal := by rwa [tripPart_soft, postEvent_guard]
    have hout := focusSample_out_of_held hguard z q
    have hhandling := focusSample_handling z q (tripPart false z u)
    rw [tripPart_soft] at hhold hmove hcurrent hout hhandling ⊢
    rw [postEvent_visit] at hhold hmove hcurrent
    rw [postEvent_focus, postEvent_out] at hout
    exact ⟨hhandling.trans (postEvent_handling _ _ _ _ _), hhold, hmove, hcurrent, hout⟩

/-! ## A sample that releases -/

/-- The guard's part of a sample that releases: GUARD_RELEASE. -/
def releasePart (z : Word) (x : State) : State := postEvent .guardRelease (stageWafer x) 1 z x

/-- The output is set within renewed bounds, once the guard is NORMAL (R142). -/
def releasedOutput (x : State) : State := refreshOutput { x with guard := { x.guard with state := .normal } }

theorem releasedOutput_focus (x : State) : (releasedOutput x).focus.boundMin = param x 16 ∧
    (releasedOutput x).focus.boundMax = param x 17 ∧ param x 16 ≤ (releasedOutput x).focus.output ∧
    (releasedOutput x).focus.output ≤ param x 17 := by
  obtain ⟨hlow, hhigh⟩ := outputBounds x
  obtain ⟨v, hset⟩ : ∃ v, releasedOutput x = driveOutput (clamp (param x 16) (param x 17) v)
      (renewBounds { x with guard := { x.guard with state := .normal } }) :=
    ⟨_, setOutput_of_free (s := { x with guard := { x.guard with state := .normal } }) rfl _⟩
  obtain ⟨hmin, hmax⟩ := clamp_bounds (hlow.trans hhigh) v
  rw [hset]
  unfold driveOutput
  split
  next hsame => exact ⟨rfl, rfl, hsame ▸ hmin, hsame ▸ hmax⟩
  next => exact ⟨rfl, rfl, hmin, hmax⟩

theorem runPlanner_frame (x : State) :
    ∃ w h o, runPlanner x = { x with wafers := w, handling := h, out := o } := by
  unfold runPlanner
  split
  · split
    · unfold issue feedPhase
      split <;> exact ⟨_, _, _, rfl⟩
    · exact ⟨x.wafers, _, x.out, rfl⟩
  · exact ⟨_, _, _, rfl⟩

/-- The planner run at the end of a step changes records, the handling unit and the messages sent. -/
theorem finish_frame (x : State) : ∃ w h o, finish x = { x with wafers := w, handling := h, out := o } := by
  unfold finish
  split
  · obtain ⟨w, h, o, hrun⟩ := runPlanner_frame { x with handling := { x.handling with runDue := false } }
    exact ⟨w, h, o, hrun⟩
  · exact ⟨_, _, _, rfl⟩

theorem finish_units (x : State) : (finish x).cmd = x.cmd ∧ (finish x).focus = x.focus ∧ (finish x).visit = x.visit := by
  obtain ⟨w, h, o, hfinish⟩ := finish_frame x
  rw [hfinish]
  exact ⟨rfl, rfl, rfl⟩

/-- What a sample leaves that releases, before the guard is NORMAL. -/
structure Releases (u y : State) : Prop where
  keeps : Keeps u y
  cause : y.cmd.causes.getLsbD 1 = true
  hold : y.visit.hold = u.visit.hold

theorem releasePart_cause (z : Word) (x : State) : (releasePart z x).cmd.causes.getLsbD 1 = true := by
  rw [releasePart, postEvent_causes, BitVec.getLsbD_or, Bool.or_eq_true]
  exact .inr rfl

theorem releases_of_guardLast (z : Word) (q : Byte) (u : State) : Releases u (releasePart z (focusSample z q u)) where
  keeps := (focusSample_keeps u z q).trans (postEvent_keeps _ _ _ _ _)
  cause := releasePart_cause z _
  hold := by
    rw [releasePart, postEvent_visit]
    exact (focusSample_tripKept z q u).2.1

theorem releases_of_guardFirst (z : Word) (q : Byte) (u : State) : Releases u (focusSample z q (releasePart z u)) where
  keeps := (postEvent_keeps u _ _ _ _).trans (focusSample_keeps _ z q)
  cause := (focusSample_tripKept z q _).1 1 (releasePart_cause z u)
  hold := (focusSample_tripKept z q _).2.1.trans (by rw [releasePart, postEvent_visit])

/-! ## The visit under a HARD trip -/

theorem haltMove_eq (s : State) : haltMove s = if s.visit.move = none then s
    else { s with out := .halt :: s.out, visit := { s.visit with move := none } } := by
  unfold haltMove
  cases h : s.visit.move with
  | none => exact (if_pos rfl).symm
  | some m => exact (if_neg nofun).symm

theorem retriesOf_eq {s : State} {v : Visit} {e : Entry} (h : entryAt s v.entry = some e) : retriesOf s v = e.retries := by
  rw [retriesOf, h]
  rfl

theorem haltMove_table (s : State) : (haltMove s).table = s.table := by
  unfold haltMove
  split <;> rfl

theorem hardTripActions_of_none {s : State} (h : s.visit.current = none) : hardTripActions s =
    { s with visit := { s.visit with hold := { s.visit.hold with guard := true } } } := by
  unfold hardTripActions
  dsimp only
  split
  case h_1 => rfl
  case h_2 v hv => exact absurd (h.symm.trans hv) nofun

theorem hardTripActions_of_some {s : State} {v : Visit} (h : s.visit.current = some v) : hardTripActions s =
    tripVisit v { s with visit := { s.visit with hold := { s.visit.hold with guard := true } } } := by
  unfold hardTripActions
  dsimp only
  split
  case h_1 hv => exact absurd (h.symm.trans hv) nofun
  case h_2 v' hv =>
    obtain rfl : v = v' := Option.some.inj (h.symm.trans hv)
    rfl

/-- An entry of the visit, changed once HALT is sent. -/
theorem updEntry_haltMove (s : State) (k : Nat) (f : Entry → Entry) : updEntry k f (haltMove s) =
    { haltMove s with table := s.table.map fun x => if x.index = k then f x else x } := by
  rw [updEntry, haltMove_table]

theorem tripVisit_of_entry {s : State} {v : Visit} {e : Entry} (h : entryAt s v.entry = some e) : tripVisit v s =
    if e.retries < 2 then requeue v (haltMove s) else failVisit v .focusFailed (haltMove s) := by
  rw [tripVisit, retriesOf_eq h]

/-! ## The sample -/

/-- The guard with its runs counted, out of band. -/
def outCounted (s : State) : Guard := { s.guard with outRun := min 255 (s.guard.outRun + 1), inRun := 0 }

/-- The guard with its runs counted, in band. -/
def inCounted (s : State) : Guard := { s.guard with inRun := min 255 (s.guard.inRun + 1), outRun := 0 }

section Sample
variable {z : Word} {q : Byte} {s : State} (hcounts : s.cmd.paramsValid = true ∧ param s 10 ≤ q.toNat)
include hcounts

theorem guardCount_of_outside (hout : ¬ (param s 18 ≤ z.toInt ∧ z.toInt ≤ param s 19)) :
    guardCount z q s = { s with guard := outCounted s } := by
  rw [guardCount_eq, if_pos hcounts, if_neg hout]
  rfl

theorem guardCount_of_inside (hin : param s 18 ≤ z.toInt ∧ z.toInt ≤ param s 19) :
    guardCount z q s = { s with guard := inCounted s } := by
  rw [guardCount_eq, if_pos hcounts, if_pos hin]
  rfl

theorem takeSample_trips (hout : ¬ (param s 18 ≤ z.toInt ∧ z.toInt ≤ param s 19))
    (hrun : paramNat s 20 ≤ min 255 (s.guard.outRun + 1)) {hard : Bool} (hhard : guardHard s = hard)
    (hstate : s.guard.state = .normal ∨ (s.guard.state = .softTripped ∧ hard = true)) : takeSample z q s =
      inEitherOrder (focusSample z q) (tripPart hard z) { s with guard :=
        ⟨if hard then .hardTripped else .softTripped, min 255 (s.guard.outRun + 1), 0, some z.toInt⟩ } := by
  have haction : guardAction z q { s with guard := outCounted s } = tripAction hard s.guard.state := by
    refine (guardAction_of_outside (s := { s with guard := outCounted s }) hcounts hout).trans ((if_pos hrun).trans ?_)
    exact congrArg (tripAction · s.guard.state) hhard
  have htrip : tripAction hard s.guard.state = if hard then .hardTrip else .softTrip := by
    rcases hstate with h | ⟨h, hh⟩
    · rw [h]
      rfl
    · rw [h, hh]
      rfl
  rw [takeSample, guardCount_of_outside hcounts hout, haction, htrip]
  cases hard <;> rfl

theorem takeSample_releases (hin : param s 18 ≤ z.toInt ∧ z.toInt ≤ param s 19)
    (hrun : paramNat s 20 ≤ min 255 (s.guard.inRun + 1)) (hstate : s.guard.state = .softTripped) : takeSample z q s =
      releasedOutput (inEitherOrder (focusSample z q) (releasePart z) { s with guard := inCounted s }) := by
  have haction : guardAction z q { s with guard := inCounted s } = .release :=
    (guardAction_of_inside (s := { s with guard := inCounted s }) hcounts hin).trans (if_pos ⟨hstate, hrun⟩)
  rw [takeSample, guardCount_of_inside hcounts hin, haction]
  rfl

/-- A sample that trips: the two units take it in one of the two orders. -/
theorem sample_trips (hout : ¬ (param s 18 ≤ z.toInt ∧ z.toInt ≤ param s 19))
    (hrun : paramNat s 20 ≤ min 255 (s.guard.outRun + 1)) {hard : Bool} (hhard : guardHard s = hard)
    (hstate : s.guard.state = .normal ∨ (s.guard.state = .softTripped ∧ hard = true)) {u : State}
    (hu : u = drawnState { s with guard :=
      ⟨if hard then .hardTripped else .softTripped, min 255 (s.guard.outRun + 1), 0, some z.toInt⟩ }) :
    ∃ y, Tripped hard u y ∧ exec (.sample z q) s = .next (finish y) ∧
      (y = tripPart hard z (focusSample z q u) ∨
        (s.visit.current ≠ none ∧ y = focusSample z q (tripPart hard z u))) := by
  have hheld : u.guard.state ≠ .normal := by
    rw [hu]
    cases hard <;> nofun
  have hexec : exec (.sample z q) s = .next (finish _) :=
    exec_unit (takeSample z q) rfl (takeSample_trips hcounts hout hrun hhard hstate)
  rcases inEitherOrder_cases (focusSample z q) (tripPart hard z) { s with guard :=
      ⟨if hard then .hardTripped else .softTripped, min 255 (s.guard.outRun + 1), 0, some z.toInt⟩ } with h | ⟨hv, h⟩
  · rw [h, ← hu] at hexec
    exact ⟨_, tripped_of_guardLast hard hheld z q, hexec, .inl rfl⟩
  · rw [h, ← hu] at hexec
    exact ⟨_, tripped_of_guardFirst hard hheld z q, hexec, .inr ⟨hv, rfl⟩⟩

/-- A sample that releases: the two units take it in one of the two orders. -/
theorem sample_releases (hin : param s 18 ≤ z.toInt ∧ z.toInt ≤ param s 19)
    (hrun : paramNat s 20 ≤ min 255 (s.guard.inRun + 1)) (hstate : s.guard.state = .softTripped) {u : State}
    (hu : u = drawnState { s with guard := inCounted s }) :
    ∃ y, Releases u y ∧ exec (.sample z q) s = .next (finish (releasedOutput y)) ∧
      (y = releasePart z (focusSample z q u) ∨ (s.visit.current ≠ none ∧ y = focusSample z q (releasePart z u))) := by
  have hexec : exec (.sample z q) s = .next (finish _) :=
    exec_unit (takeSample z q) rfl (takeSample_releases hcounts hin hrun hstate)
  rcases inEitherOrder_cases (focusSample z q) (releasePart z) { s with guard := inCounted s } with h | ⟨hv, h⟩
  · rw [h, ← hu] at hexec
    exact ⟨_, releases_of_guardLast z q u, hexec, .inl rfl⟩
  · rw [h, ← hu] at hexec
    exact ⟨_, releases_of_guardFirst z q u, hexec, .inr ⟨hv, rfl⟩⟩

end Sample

/-- When a sample neither trips nor releases (R140 to R142). -/
theorem guardAction_eq_none_iff (z : Word) (q : Byte) (s : State) :
    guardAction z q (guardCount z q s) = .none ↔
      ¬ (s.cmd.paramsValid = true ∧ param s 10 ≤ q.toNat) ∨
      ((param s 18 ≤ z.toInt ∧ z.toInt ≤ param s 19) ∧
        ¬ (s.guard.state = .softTripped ∧ paramNat s 20 ≤ min 255 (s.guard.inRun + 1))) ∨
      (¬ (param s 18 ≤ z.toInt ∧ z.toInt ≤ param s 19) ∧ (min 255 (s.guard.outRun + 1) < paramNat s 20 ∨
        s.guard.state = .hardTripped ∨ (s.guard.state = .softTripped ∧ ¬ param s 21 = 1))) := by
  by_cases hcounts : s.cmd.paramsValid = true ∧ param s 10 ≤ q.toNat
  · by_cases hin : param s 18 ≤ z.toInt ∧ z.toInt ≤ param s 19
    · have haction := guardAction_of_inside (s := { s with guard := inCounted s }) hcounts hin
      rw [guardCount_of_inside hcounts hin, haction]
      simp only [hcounts, hin, not_true, false_or, true_and, false_and, or_false, and_self]
      exact ⟨fun h hrelease => absurd ((if_pos hrelease).symm.trans h) nofun, fun h => if_neg h⟩
    · have haction := guardAction_of_outside (s := { s with guard := outCounted s }) hcounts hin
      rw [guardCount_of_outside hcounts hin, haction]
      simp only [hcounts, hin, not_true, not_false_iff, false_or, true_and, false_and, and_self]
      have hmode : guardHard { s with guard := outCounted s } = false ↔ ¬ param s 21 = 1 := by
        rw [← Bool.not_eq_true, guardHard_iff]
        rfl
      rcases Nat.lt_or_ge (min 255 (s.guard.outRun + 1)) (paramNat s 20) with hshort | hlong
      · exact ⟨fun _ => .inl hshort, fun _ => if_neg (Nat.not_le.mpr hshort)⟩
      · have hfilter : guardFilter { s with guard := outCounted s } ≤ (outCounted s).outRun := hlong
        rw [if_pos hfilter, tripAction_eq_none_iff, hmode]
        exact (or_iff_right (Nat.not_lt.mpr hlong)).symm
  · rw [guardAction_of_not_counts (s := guardCount z q s) (by rw [guardCount_eq]; exact hcounts)]
    exact ⟨fun _ => .inl hcounts, fun _ => rfl⟩

/-- Settles O47. -/
theorem guardTrips : Obligations.GuardTrips := by
  intro z q s counts inside outRun inRun hard drawn
  refine ⟨fun hcounts hout hrun hstate => ?trip, fun hcounts hin hstate hrun => ?release, ?quiet, ?hold, ?visit⟩
  case trip =>
    by_cases hh : hard
    · simp only [if_pos hh]
      obtain ⟨y, htripped, hexec, horder⟩ := sample_trips (s := s) (hard := true) hcounts hout hrun
        ((guardHard_iff s).mpr hh) (hstate.imp_right fun h => ⟨h.1, rfl⟩) rfl
      obtain ⟨hcmd, hfocus, hvisit⟩ := finish_units y
      have hkeeps := htripped.keeps.trans (finish_keeps y)
      refine ⟨finish y, hexec, hkeeps.guard, hkeeps.held_output rfl, hkeeps.mem, hcmd ▸ htripped.cause, fun _ => ?_,
        fun hnot => absurd hh hnot, ?_⟩
      · rw [hvisit]
        exact htripped.hardTrip rfl
      · exact horder.imp (fun h => by rw [h]; rfl) fun h => ⟨h.1, by rw [h.2]; rfl⟩
    · simp only [if_neg hh]
      have hsoft : guardHard s = false := Bool.eq_false_iff.mpr (mt (guardHard_iff s).mp hh)
      have hnormal : s.guard.state = .normal := hstate.resolve_right fun h => hh h.2
      obtain ⟨y, htripped, hexec, horder⟩ := sample_trips (s := s) (hard := false) hcounts hout hrun hsoft (.inl hnormal) rfl
      obtain ⟨hcmd, hfocus, hvisit⟩ := finish_units y
      obtain ⟨hhandling, hhold, hmove, hcurrent, hsent⟩ := htripped.softTrip rfl
      have hkeeps := htripped.keeps.trans (finish_keeps y)
      refine ⟨finish y, hexec, hkeeps.guard, hkeeps.held_output rfl, hkeeps.mem, hcmd ▸ htripped.cause,
        fun hhard => absurd hhard hh, fun _ hidle => ?_, ?_⟩
      · rw [finish_of_handling hidle hhandling]
        exact ⟨hhold, hmove, hcurrent, hsent⟩
      · exact horder.imp (fun h => by rw [h]; rfl) fun h => ⟨h.1, by rw [h.2]; rfl⟩
  case release =>
    obtain ⟨y, hreleases, hexec, horder⟩ := sample_releases (s := s) hcounts hin hrun hstate rfl
    obtain ⟨hcmd, hfocus, hvisit⟩ := finish_units (releasedOutput y)
    obtain ⟨hmin, hmax, hlow, hhigh⟩ := releasedOutput_focus y
    have hset : Keeps { y with guard := { y.guard with state := .normal } } (finish (releasedOutput y)) :=
      (refreshOutput_keeps _).trans (finish_keeps _)
    have hparam : ∀ n, param y n = param s n := fun n => by
      rw [param, param, hreleases.keeps.paramRaw]
      rfl
    have hguard : y.guard = inCounted s := hreleases.keeps.guard
    refine ⟨_, hexec, ?_, ?_, ?_, ?_, ?_, ?_, ?_, ?_, ?_⟩
    · rw [hset.guard, hguard]
      rfl
    · rw [hfocus, hmin, hparam]
    · rw [hfocus, hmax, hparam]
    · rw [hfocus, ← hparam]
      exact hlow
    · rw [hfocus, ← hparam]
      exact hhigh
    · exact hset.mem.trans hreleases.keeps.mem
    · rw [hcmd, releasedOutput, refreshOutput, setOutput_cmd]
      exact hreleases.cause
    · rw [hvisit, releasedOutput, refreshOutput, setOutput_visit]
      exact hreleases.hold
    · exact horder.imp (fun h => by rw [h]; rfl) fun h => ⟨h.1, by rw [h.2]; rfl⟩
  case quiet =>
    intro quiet g
    have hcount : guardCount z q s = { s with guard := g } := guardCount_eq z q s
    have hiff : guardAction z q { s with guard := g } = .none ↔ quiet := hcount ▸ guardAction_eq_none_iff z q s
    refine ⟨hiff, fun hquiet => ⟨_, exec_unit (takeSample z q) rfl rfl, ?_⟩⟩
    rw [takeSample, hcount, hiff.mpr hquiet]
    exact ((focusSample_keeps _ z q).trans (finish_keeps _)).guard
  case hold =>
    intro held
    exact ⟨fun hnone => hardTripActions_of_none hnone, fun v hv => hardTripActions_of_some hv⟩
  case visit =>
    intro v e he halted
    have hhalted : haltMove s = halted := haltMove_eq s
    refine ⟨fun hfew => ?_, fun hmany => ?_⟩
    · rw [tripVisit_of_entry he, if_pos hfew, requeue, updEntry_haltMove, hhalted]
    · rw [tripVisit_of_entry he, if_neg (Nat.not_lt.mpr hmany), failVisit, closeEntry, updEntry_haltMove, hhalted]

end Sys2Proof.Machine
end

-- ==== Proofs: LOADMAP_COMPLETE and the end of a soft reset (R19, R47, R160, R170, R173, R199, R202) ====
section
namespace Sys2Proof.Machine

/-! ## A run of events -/

/-- Only events are posted from `s` to `t`. -/
structure Posts (s t : State) : Prop where
  frame : ∃ c js ps, t = { s with cmd := c, path := { s.path with jobs := js, waiters := ps } }
  paramRaw : t.cmd.paramRaw = s.cmd.paramRaw
  paramsValid : t.cmd.paramsValid = s.cmd.paramsValid
  resetting : t.cmd.resetting = s.cmd.resetting
  causes : ∀ k, s.cmd.causes.getLsbD k = true → t.cmd.causes.getLsbD k = true

theorem Posts.refl (s : State) : Posts s s := ⟨⟨_, _, _, rfl⟩, rfl, rfl, rfl, fun _ h => h⟩

theorem Posts.trans {s t u : State} (h : Posts s t) (k : Posts t u) : Posts s u where
  frame := by
    obtain ⟨c, js, ps, ht⟩ := h.frame
    obtain ⟨c', js', ps', hu⟩ := k.frame
    exact ⟨c', js', ps', by rw [hu, ht]⟩
  paramRaw := k.paramRaw.trans h.paramRaw
  paramsValid := k.paramsValid.trans h.paramsValid
  resetting := k.resetting.trans h.resetting
  causes := fun i hi => k.causes i (h.causes i hi)

theorem postEvent_posts (s : State) (k : EventKind) (w : Option Nat) (a b : Word) : Posts s (postEvent k w a b s) :=
  ⟨postEvent_frame s k w a b, by simp, by simp, by simp, (postEvent_tripKept s k w a b).causes⟩

/-! ## The parameter copy and the clamped words -/

/-- PARAM_CLAMPED for each word of a list of words that is out of range, in word order (R203). -/
def clampedEvents (area : List Word) (u : State) : State :=
  (List.range 128).foldl (fun u n =>
    let raw := area.getD n 0
    if isClamped n raw = true then postEvent .paramClamped none (word n) raw u else u) u

theorem clampedEvents_posts (area : List Word) (u : State) : Posts u (clampedEvents area u) := by
  unfold clampedEvents
  generalize List.range 128 = ns
  induction ns generalizing u with
  | nil => exact .refl u
  | cons n ns ih =>
    refine Posts.trans ?_ (ih _)
    dsimp only
    split
    · exact postEvent_posts u _ _ _ _
    · exact .refl u

/-- Two folds agree where their steps do on the states that meet an invariant of the steps. -/
theorem foldl_congr_of_invariant {α β : Type} {f g : β → α → β} (P : β → Prop) {l : List α}
    (hsame : ∀ u, P u → ∀ a ∈ l, f u a = g u a) (hkeep : ∀ u a, P u → P (f u a)) {u : β} (hu : P u) :
    l.foldl f u = l.foldl g u := by
  induction l generalizing u with
  | nil => rfl
  | cons a l ih =>
    rw [List.foldl_cons, List.foldl_cons, ← hsame u hu a List.mem_cons_self]
    exact ih (fun v hv b hb => hsame v hv b (List.mem_cons_of_mem _ hb)) (hkeep u a hu)

/-- The words copied are those that are tested for PARAM_CLAMPED. -/
theorem clampEvents_eq {u : State} {area : List Word} (h : u.cmd.paramRaw = (List.range 128).map fun n => area.getD n 0) :
    clampEvents u = clampedEvents area u := by
  refine foldl_congr_of_invariant (fun v : State => v.cmd.paramRaw = (List.range 128).map fun n => area.getD n 0)
    (fun v hv n hn => ?_) (fun v n hv => (clampEvent_keeps v n _).paramRaw.trans hv) h
  have hword : v.cmd.paramRaw.getD n 0 = area.getD n 0 := by
    rw [hv, List.getD_eq_getElem?_getD, List.getElem?_map, List.getElem?_range (List.mem_range.mp hn), Option.map_some,
      Option.getD_some]
  rw [hword]
  rfl

/-- The parameter copy, before the focus unit takes the bounds. -/
def copiedState (area : List Word) (s : State) : State :=
  { s with cmd := { s.cmd with paramRaw := (List.range 128).map fun n => area.getD n 0, paramsValid := true } }

theorem boundsChanged_iff (s t : State) : boundsChanged s t = true ↔
    s.cmd.paramsValid = false ∨ param s 16 ≠ param t 16 ∨ param s 17 ≠ param t 17 := by
  rw [boundsChanged, Bool.or_eq_true, Bool.or_eq_true, Bool.not_eq_true', bne_iff_ne, bne_iff_ne, or_assoc]

theorem copyParams_eq (area : List Word) (s : State) : copyParams area s =
    if s.cmd.paramsValid = false ∨ param s 16 ≠ param (copiedState area s) 16 ∨ param s 17 ≠ param (copiedState area s) 17
    then reclampOutput (copiedState area s) else copiedState area s :=
  if_congr (boundsChanged_iff s _) rfl rfl

/-- The copy changes the parameter words, and may set the focus output. -/
theorem copyParams_frame (area : List Word) (s : State) : ∃ f o, copyParams area s =
    { copiedState area s with focus := f, out := o } := by
  rw [copyParams_eq]
  split
  · exact setOutput_frame (copiedState area s) s.focus.output
  · exact ⟨_, _, rfl⟩

/-! ## The map that was read -/

theorem finishHead_frame (s : State) : ∃ m js, finishHead s = { s with mem := m, path := { s.path with jobs := js } } := by
  unfold finishHead
  split
  · exact ⟨_, _, rfl⟩
  · exact ⟨_, _, rfl⟩

/-- A REPORTS zone that moved starts an empty ring (R160). -/
theorem setReportSide_frame (old zs : List Zone) (u : State) : ∃ js ps r, setReportSide old zs u =
    { u with path := { u.path with jobs := js, waiters := ps }, report := r } ∧
    (sameZone old zs .reports = true → r = u.report) ∧
    (sameZone old zs .reports = false → r.producer = 0 ∧ r.wrap = 0 ∧ r.consumer = 0) := by
  by_cases h : sameZone old zs .reports = true
  · refine ⟨_, _, u.report, if_pos h, fun _ => rfl, fun hne => ?_⟩
    rw [h] at hne
    exact Bool.noConfusion hne
  · refine ⟨(moveReportRing zs u).path.jobs, (moveReportRing zs u).path.waiters,
      { u.report with producer := 0, wrap := 0, consumer := 0 }, (if_neg h).trans ?_, fun hs => absurd hs h,
      fun _ => ⟨rfl, rfl, rfl⟩⟩
    unfold moveReportRing
    dsimp only
    split <;> rfl

/-- An EVENTS zone that moved starts at place 0 (R199). -/
theorem setEventSide_frame (old zs : List Zone) (u : State) : ∃ n w k, setEventSide old zs u =
    { u with cmd := { u.cmd with evNext := n, evWrap := w, evConsumer := k } } := by
  unfold setEventSide
  split
  · exact ⟨_, _, _, rfl⟩
  · exact ⟨_, _, _, rfl⟩

/-- What LOADMAP_COMPLETE leaves of `s` before a soft reset completes: `v` has the words `area` copied. -/
structure Loads (s : State) (area : List Word) (v : State) : Prop where
  frame : ∃ m md zs js ps c f r o, v = { s with
    mem := m, path := { s.path with mode := md, zones := zs, jobs := js, waiters := ps }
    cmd := c, focus := f, report := r, out := o }
  paramRaw : v.cmd.paramRaw = (List.range 128).map fun n => area.getD n 0
  paramsValid : v.cmd.paramsValid = true
  resetting : v.cmd.resetting = s.cmd.resetting

theorem Loads.posts {s u v : State} {area : List Word} (h : Loads s area u) (k : Posts u v) : Loads s area v where
  frame := by
    obtain ⟨m, md, zs, js, ps, c, f, r, o, hu⟩ := h.frame
    obtain ⟨c', js', ps', hv⟩ := k.frame
    exact ⟨m, md, zs, js', ps', c', f, r, o, by rw [hv, hu]⟩
  paramRaw := k.paramRaw.trans h.paramRaw
  paramsValid := k.paramsValid.trans h.paramsValid
  resetting := k.resetting.trans h.resetting

/-- The parameter copy, once both jobs are done. -/
def copied (area : List Word) (s : State) : State := copyParams area (finishHead (finishHead s))

theorem copied_frame (area : List Word) (s : State) : ∃ m js f o, copied area s = { s with
    mem := m, path := { s.path with jobs := js }, focus := f, out := o
    cmd := { s.cmd with paramRaw := (List.range 128).map fun n => area.getD n 0, paramsValid := true } } := by
  obtain ⟨m, js, h⟩ := finishHead_frame s
  obtain ⟨m', js', h'⟩ := finishHead_frame (finishHead s)
  obtain ⟨f, o, hcopy⟩ := copyParams_frame area (finishHead (finishHead s))
  exact ⟨m', js', f, o, by rw [copied, hcopy, copiedState, h', h]⟩

theorem copied_zones (area : List Word) (s : State) : (copied area s).path.zones = s.path.zones := by
  obtain ⟨m, js, f, o, h⟩ := copied_frame area s
  rw [h]

/-- A map in a mode, in force after the copy. -/
theorem setMap_loads (m : PathMode) (zs : List Zone) (area : List Word) (s : State) :
    Loads s area (setMap m zs (copied area s)) := by
  obtain ⟨mem, js, f, o, h⟩ := copied_frame area s
  rw [h]
  exact ⟨⟨_, _, _, _, _, _, _, _, _, rfl⟩, rfl, rfl, rfl⟩

/-- The rings under a valid map: the state to which MAP_RELOADED is posted. -/
def withRings (zs : List Zone) (area : List Word) (s : State) : State :=
  setEventSide s.path.zones zs (setReportSide s.path.zones zs (setMap .mapped zs (copied area s)))

theorem withRings_loads (zs : List Zone) (area : List Word) (s : State) : Loads s area (withRings zs area s) ∧
    (withRings zs area s).path.mode = .mapped ∧ (withRings zs area s).path.zones = zs ∧
    (sameZone s.path.zones zs .reports = true → (withRings zs area s).report = s.report) ∧
    (sameZone s.path.zones zs .reports = false → (withRings zs area s).report.producer = 0 ∧
      (withRings zs area s).report.wrap = 0 ∧ (withRings zs area s).report.consumer = 0) := by
  obtain ⟨js, ps, r, hreports, hsame, hmoved⟩ := setReportSide_frame s.path.zones zs (setMap .mapped zs (copied area s))
  obtain ⟨n, w, k, hevents⟩ := setEventSide_frame s.path.zones zs
    (setReportSide s.path.zones zs (setMap .mapped zs (copied area s)))
  obtain ⟨mem, js', f, o, hcopied⟩ := copied_frame area s
  have hreport : (setMap .mapped zs (copied area s)).report = s.report := by rw [hcopied]; rfl
  have hall : withRings zs area s = _ := hevents
  rw [hreports, hcopied] at hall
  rw [hall]
  exact ⟨⟨⟨_, _, _, _, _, _, _, _, _, rfl⟩, rfl, rfl, rfl⟩, rfl, rfl, fun h => (hsame h).trans hreport, hmoved⟩

theorem applyMap_of_valid {ws : List Word} (h : mapFault (headerCount ws) (zonesOfWords ws) = none) (area : List Word)
    (s : State) : applyMap ws (copied area s) = postEvent .mapReloaded none (word (headerGeneration ws))
      (word (headerCount ws)) (withRings (zonesOfWords ws) area s) := by
  rw [applyMap, h]
  simp only [mapLoaded, copied_zones]
  rfl

theorem applyMap_of_invalid {ws : List Word} {reason i : Nat}
    (h : mapFault (headerCount ws) (zonesOfWords ws) = some (reason, i)) (u : State) : applyMap ws u =
      postEvent .mapInvalid none (word reason) (word i) (setMap .transparent [] u) := by
  rw [applyMap, h]
  rfl

/-! ## The end of LOADING -/

/-- The state before a soft reset completes. -/
def loaded (s : State) : State :=
  clampedEvents (headWords (finishHead s)) (applyMap (headWords s) (copied (headWords (finishHead s)) s))

theorem applyMap_loads (ws area : List Word) (s : State) : Loads s area (applyMap ws (copied area s)) := by
  cases h : mapFault (headerCount ws) (zonesOfWords ws) with
  | none =>
    rw [applyMap_of_valid h]
    exact (withRings_loads _ _ _).1.posts (postEvent_posts _ _ _ _ _)
  | some p =>
    rw [applyMap_of_invalid (reason := p.1) (i := p.2) h]
    exact (setMap_loads _ _ _ _).posts (postEvent_posts _ _ _ _ _)

theorem loaded_loads (s : State) : Loads s (headWords (finishHead s)) (loaded s) :=
  (applyMap_loads _ _ _).posts (clampedEvents_posts _ _)

theorem endLoading_eq (s : State) :
    endLoading s = noteWait (if s.cmd.resetting = true then completeReset (loaded s) else loaded s) := by
  have hloaded : clampEvents (applyMap (mapWords s) (copyParams (paramWords s) (finishHead (finishHead s)))) = loaded s :=
    clampEvents_eq (applyMap_loads _ _ _).paramRaw
  rw [endLoading, hloaded, (loaded_loads s).resetting]

theorem exec_loadmapComplete {s : State} (hmode : s.path.mode = .loading)
    (hjobs : (s.path.jobs.take 2).map (·.kind) = [.mapBlock, .paramArea]) : exec .loadmapComplete s =
      .next (finish (noteWait (if s.cmd.resetting = true then completeReset (loaded s) else loaded s))) := by
  refine exec_unit completeLoading rfl ((if_pos ?_).trans (endLoading_eq s))
  rw [loadmapsAtHead, hmode, hjobs]
  rfl

end Sys2Proof.Machine
end

-- ==== Proofs: lot 0 and the completion of a soft reset (R19, R20, R47, R191) ====
section
namespace Sys2Proof.Machine

/-! ## Lot 0 -/

theorem waferAt_keepRecord {s t : State} (run : Nat) (h : t.wafers = s.wafers.map (keepRecord run)) (i : Nat) :
    waferAt t i = keepRecord run (waferAt s i) := waferAt_map (s := s) (g := keepRecord run) rfl h i

theorem keepRecord_slot (run : Nat) {w : Wafer} (h : w.location = .slot) : keepRecord run (some w) = none := by
  rw [keepRecord, Option.filter_some, if_neg (by rw [h]; nofun)]
  rfl

theorem keepRecord_out (run : Nat) {w : Wafer} (h : w.location ≠ .slot) :
    keepRecord run (some w) = some (keptWafer run w) := by
  rw [keepRecord, Option.filter_some, if_pos (bne_iff_ne.mpr h)]
  rfl

theorem keepRecord_eq_some {run : Nat} {o : Option Wafer} {x : Wafer} (h : keepRecord run o = some x) :
    ∃ w, o = some w ∧ w.location ≠ .slot ∧ x = keptWafer run w := by
  obtain ⟨w, hw, rfl⟩ := Option.map_eq_some_iff.mp h
  obtain ⟨hw, hout⟩ := Option.filter_eq_some_iff.mp hw
  exact ⟨w, hw, bne_iff_ne.mp hout, rfl⟩

/-- Some record is kept. -/
theorem any_keepRecord_iff (s : State) (run : Nat) : (s.wafers.map (keepRecord run)).any Option.isSome = true ↔
    ∃ i w, waferAt s i = some w ∧ w.location ≠ .slot := by
  rw [List.any_eq_true]
  constructor
  · rintro ⟨o, ho, hsome⟩
    obtain ⟨x, rfl⟩ := Option.isSome_iff_exists.mp hsome
    obtain ⟨o, hmem, hkeep⟩ := List.mem_map.mp ho
    obtain ⟨w, rfl, hout, -⟩ := keepRecord_eq_some hkeep
    obtain ⟨i, hi, hget⟩ := List.getElem_of_mem hmem
    refine ⟨i, w, ?_, hout⟩
    rw [waferAt, List.getD_eq_getElem?_getD, List.getElem?_eq_getElem hi, hget]
    rfl
  · rintro ⟨i, w, hw, hout⟩
    have hi := lt_of_waferAt hw
    refine ⟨some (keptWafer run w), List.mem_map.mpr ⟨some w, ?_, keepRecord_out run hout⟩, rfl⟩
    rw [waferAt, List.getD_eq_getElem?_getD, List.getElem?_eq_getElem hi] at hw
    exact hw ▸ List.getElem_mem hi

/-- The state of lot 0 before its closing test. -/
def lotZeroState (s : State) : State :=
  { s with wafers := s.wafers.map (keepRecord s.nextRun), lots := ⟨some (lotZero s.nextRun), none⟩, nextRun := s.nextRun + 1 }

/-- Lot 0 closes at once, as no wafer of it is open, and waits for its wafers to come home (R12, R20). -/
theorem closingTest_lotZero {s : State} (hlength : TableOfWafers s)
    (hkept : ∃ i w, waferAt s i = some w ∧ w.location ≠ .slot) :
    closingTest s.nextRun (lotZeroState s) = wantPlan { lotZeroState s with
      lots := ⟨some { lotZero s.nextRun with state := .closing }, none⟩ } := by
  have hrecords : ∀ i, waferAt (lotZeroState s) i = keepRecord s.nextRun (waferAt s i) :=
    waferAt_keepRecord (t := lotZeroState s) s.nextRun rfl
  have hlot : lotOfRun (lotZeroState s) s.nextRun = some (lotZero s.nextRun) := by
    change [lotZero s.nextRun].find? _ = _
    exact List.find?_cons_of_pos (beq_self_eq_true s.nextRun)
  have hclosed : allOfLot (lotZeroState s) s.nextRun (fun w => !w.phase.isOpen) = true := by
    rw [allOfLot_iff]
    intro i x _ hx _
    obtain ⟨w, -, -, rfl⟩ := keepRecord_eq_some ((hrecords i).symm.trans hx)
    rfl
  have hclosing : setLotState s.nextRun .closing (lotZeroState s) = wantPlan { lotZeroState s with
      lots := ⟨some { lotZero s.nextRun with state := .closing }, none⟩ } := by
    have hown : (lotZero s.nextRun).run = s.nextRun := rfl
    simp only [setLotState, updLot, lotZeroState, Option.map_some, Option.map_none, if_pos hown]
  have hwaiting : ¬ readyForReport (wantPlan { lotZeroState s with
      lots := ⟨some { lotZero s.nextRun with state := .closing }, none⟩ }) s.nextRun = true := by
    rw [readyForReport_iff]
    intro hall
    obtain ⟨i, w, hw, hout⟩ := hkept
    have hx : waferAt (lotZeroState s) i = some (keptWafer s.nextRun w) := by
      rw [hrecords, hw, keepRecord_out _ hout]
    rcases (hall i _ ((lt_of_waferAt hw).trans_eq hlength) hx rfl).1 with h | h <;> cases h
  have hlot' : lotOfRun (wantPlan { lotZeroState s with
      lots := ⟨some { lotZero s.nextRun with state := .closing }, none⟩ }) s.nextRun =
      some { lotZero s.nextRun with state := .closing } := by
    change [({ lotZero s.nextRun with state := .closing } : Lot)].find? _ = _
    exact List.find?_cons_of_pos (beq_self_eq_true s.nextRun)
  have hrequest : requestTest s.nextRun (wantPlan { lotZeroState s with
      lots := ⟨some { lotZero s.nextRun with state := .closing }, none⟩ }) = wantPlan { lotZeroState s with
      lots := ⟨some { lotZero s.nextRun with state := .closing }, none⟩ } := by
    rw [requestTest, hlot']
    refine if_neg fun h => hwaiting ?_
    rw [Bool.and_eq_true, Bool.and_eq_true] at h
    exact h.1.2
  have hopen : (decide ((lotZero s.nextRun).state ≠ .closing) &&
      allOfLot (lotZeroState s) s.nextRun fun w => !w.phase.isOpen) = true := by
    rw [hclosed]
    rfl
  unfold closingTest
  rw [hlot]
  dsimp only
  rw [if_pos hopen, hclosing]
  exact hrequest

/-- With no wafer out of its slot the lot queue is empty (R20). -/
theorem buildLotZero_of_none {s : State} (h : ∀ i w, waferAt s i = some w → w.location = .slot) :
    buildLotZero s = { s with wafers := s.wafers.map (keepRecord s.nextRun), lots := ⟨none, none⟩ } := by
  refine if_neg fun hany => ?_
  obtain ⟨i, w, hw, hout⟩ := (any_keepRecord_iff s s.nextRun).mp hany
  exact hout (h i w hw)

theorem buildLotZero_of_some {s : State} (hlength : TableOfWafers s)
    (h : ∃ i w, waferAt s i = some w ∧ w.location ≠ .slot) : buildLotZero s = wantPlan { lotZeroState s with
      lots := ⟨some { lotZero s.nextRun with state := .closing }, none⟩ } :=
  (if_pos ((any_keepRecord_iff s s.nextRun).mpr h)).trans (closingTest_lotZero hlength h)

/-- Either way the records kept are those out of their slots, and the handling unit but for a planner run, the command
unit and the paths of memory are as before. -/
theorem buildLotZero_frame {s : State} (hlength : TableOfWafers s) : ∃ q n d, buildLotZero s = { s with
    wafers := s.wafers.map (keepRecord s.nextRun), lots := q, nextRun := n
    handling := { s.handling with runDue := d } } := by
  by_cases h : ∃ i w, waferAt s i = some w ∧ w.location ≠ .slot
  · exact ⟨_, _, true, buildLotZero_of_some hlength h⟩
  · refine ⟨_, _, s.handling.runDue, buildLotZero_of_none fun i w hw => ?_⟩
    by_contra hout
    exact h ⟨i, w, hw, hout⟩

/-! ## The completion of a soft reset -/

/-- The state in which a soft reset that completes builds lot 0 (R191). -/
def resetDone (s : State) : State :=
  { s with cmd := { s.cmd with resetting := false }, path := { s.path with held := [] } }

theorem settleHandling_eq (s : State) : settleHandling s =
    if anyUnknown s = true then
      { s with handling := { s.handling with prealign := none, removals := [], state := .halted } }
    else { s with handling := { s.handling with prealign := none, removals := [], state := .idle, runDue := true } } := rfl

/-- What a soft reset that completes leaves. -/
theorem completeReset_frame {s : State} (hlength : TableOfWafers s) : ∃ q n d, completeReset s = { s with
    cmd := { s.cmd with resetting := false }
    path := { s.path with held := [] }
    wafers := s.wafers.map (keepRecord s.nextRun), lots := q, nextRun := n
    handling := if anyUnknown (buildLotZero (resetDone s)) = true
      then { s.handling with prealign := none, removals := [], state := .halted, runDue := d }
      else { s.handling with prealign := none, removals := [], state := .idle, runDue := true } } ∧
    q = (buildLotZero (resetDone s)).lots := by
  obtain ⟨q, n, d, hbuild⟩ := buildLotZero_frame (s := resetDone s) hlength
  refine ⟨q, n, d, ?_, by rw [hbuild]⟩
  have hall : completeReset s = settleHandling (buildLotZero (resetDone s)) := rfl
  rw [hall, settleHandling_eq]
  split
  · rw [hbuild]
    rfl
  · rw [hbuild]
    rfl

theorem anyUnknown_buildLotZero {s : State} (hlength : TableOfWafers s) :
    anyUnknown (buildLotZero s) = true ↔ ∃ i w, waferAt s i = some w ∧ w.location = .unknown := by
  obtain ⟨q, n, d, hbuild⟩ := buildLotZero_frame hlength
  have hrecords : ∀ i, waferAt (buildLotZero s) i = keepRecord s.nextRun (waferAt s i) :=
    waferAt_keepRecord s.nextRun (by rw [hbuild])
  rw [anyUnknown_iff]
  constructor
  · rintro ⟨i, x, -, hx, hunknown⟩
    obtain ⟨w, hw, -, rfl⟩ := keepRecord_eq_some ((hrecords i).symm.trans hx)
    exact ⟨i, w, hw, hunknown⟩
  · rintro ⟨i, w, hw, hunknown⟩
    refine ⟨i, keptWafer s.nextRun w, (lt_of_waferAt hw).trans_eq hlength, ?_, hunknown⟩
    rw [hrecords, hw, keepRecord_out _ (by rw [hunknown]; nofun)]

/-- A planner run takes a WAITING wafer at most from its slot. -/
theorem waferAt_finish {s : State} (h : ∀ i w, waferAt s i = some w → w.phase ≠ .waiting) (i : Nat) :
    waferAt (finish s) i = waferAt s i := by
  have hissue : ∀ p (u : State), u.wafers = s.wafers → waferAt (issue p u) i = waferAt s i := by
    intro p u hu
    have hsent : waferAt (sendOrder p false u) i = waferAt s i := waferAt_congr hu i
    unfold issue feedPhase
    split
    · by_cases hi : i = p.wafer
      · rw [← hi, waferAt_updWafer_same, hsent]
        cases hw : waferAt s i with
        | none => rfl
        | some w => rw [Option.map_some, if_neg (h i w hw)]
      · rw [waferAt_updWafer_ne hi, hsent]
    · exact hsent
  unfold finish
  split
  · unfold runPlanner
    split
    · split
      · exact hissue _ _ rfl
      · rfl
    · rfl
  · rfl

/-- A planner run changes the handling unit's state, tag and order alone. -/
theorem finish_prealign (s : State) : (finish s).handling.prealign = s.handling.prealign := by
  unfold finish
  split
  · exact (runPlanner_reviewKeeps _).prealign
  · rfl

theorem finish_halted {s : State} (h : s.handling.state = .halted) : (finish s).handling.state = .halted := by
  rw [finish_of_not_runs fun hruns => by
    obtain ⟨-, hidle, -⟩ := hruns
    rw [h] at hidle
    rcases hidle with hidle | hidle <;> cases hidle]
  exact h

theorem sameZone_iff (old new : List Zone) (k : ZoneKind) : sameZone old new k = true ↔
    ∃ y z, old.find? (fun x => x.kind == k) = some y ∧ new.find? (fun x => x.kind == k) = some z ∧
      y.page = z.page ∧ y.pages = z.pages := by
  unfold sameZone zoneIn
  cases old.find? (fun x => x.kind == k) <;> cases new.find? (fun x => x.kind == k) <;> simp

/-- What the two jobs of LOADING read (R170). -/
theorem headWords_of_mapBlock {s : State} {js : List Job} (h : s.path.jobs = mapBlockJob :: js) :
    headWords s = readWords s.mem 36 0xFFF000 := by
  rw [headWords, h]
  rfl

theorem readWords_add (m : Memory) (j k a : Nat) :
    readWords m (j + k) a = readWords m j a ++ readWords m k (a + 4 * j) := by
  induction j generalizing a with
  | zero => rw [Nat.zero_add]; rfl
  | succ j ih =>
    rw [Nat.succ_add, readWords, readWords, ih, List.cons_append, Nat.mul_succ, Nat.add_assoc, Nat.add_comm 4]

theorem runBursts_readBlocks (m : Memory) (n a : Nat) (got : List Word) :
    runBursts m got (readBlocks n a) = (m, got ++ readWords m (8 * n) a) := by
  induction n generalizing a got with
  | zero => rw [readBlocks, runBursts, Nat.mul_zero, readWords, List.append_nil]
  | succ n ih =>
    rw [readBlocks, runBursts, runBurst, ih, Nat.mul_succ, Nat.add_comm (8 * n) 8, readWords_add, List.append_assoc]

theorem headWords_of_paramArea {s : State} {js : List Job} (h : s.path.jobs = paramAreaJob :: js) :
    headWords s = readWords s.mem 128 0xFFF200 := by
  rw [headWords, h]
  exact congrArg Prod.snd (runBursts_readBlocks s.mem 16 0xFFF200 [])

theorem finishHead_of_mapBlock {s : State} {js : List Job} (h : s.path.jobs = mapBlockJob :: js) :
    finishHead s = { s with path := { s.path with jobs := js } } := by
  rw [finishHead, h]
  rfl

theorem Posts.units {s t : State} (h : Posts s t) :
    t.path.mode = s.path.mode ∧ t.path.zones = s.path.zones ∧ t.report = s.report := by
  obtain ⟨c, js, ps, hframe⟩ := h.frame
  rw [hframe]
  exact ⟨rfl, rfl, rfl⟩

theorem postEvent_cause (s : State) (k : EventKind) (w : Option Nat) (a b : Word) {n : Nat}
    (h : k.category.bit.getLsbD n = true) : (postEvent k w a b s).cmd.causes.getLsbD n = true := by
  rw [postEvent_causes, BitVec.getLsbD_or, h, Bool.or_true]

theorem loaded_of_valid {s : State} (h : mapFault (headerCount (headWords s)) (zonesOfWords (headWords s)) = none) :
    (loaded s).path.mode = .mapped ∧ (loaded s).path.zones = zonesOfWords (headWords s) ∧
    (loaded s).cmd.causes.getLsbD 4 = true ∧
    (sameZone s.path.zones (zonesOfWords (headWords s)) .reports = true → (loaded s).report = s.report) ∧
    (sameZone s.path.zones (zonesOfWords (headWords s)) .reports = false → (loaded s).report.producer = 0 ∧
      (loaded s).report.wrap = 0 ∧ (loaded s).report.consumer = 0) := by
  obtain ⟨-, hmode, hzones, hsame, hmoved⟩ := withRings_loads (zonesOfWords (headWords s)) (headWords (finishHead s)) s
  have hposts := clampedEvents_posts (headWords (finishHead s)) (postEvent .mapReloaded none
    (word (headerGeneration (headWords s))) (word (headerCount (headWords s)))
    (withRings (zonesOfWords (headWords s)) (headWords (finishHead s)) s))
  obtain ⟨hm, hz, hr⟩ := hposts.units
  obtain ⟨hm', hz', hr'⟩ := (postEvent_posts (withRings (zonesOfWords (headWords s)) (headWords (finishHead s)) s)
    .mapReloaded none (word (headerGeneration (headWords s))) (word (headerCount (headWords s)))).units
  have hreport := hr.trans hr'
  rw [loaded, applyMap_of_valid h]
  refine ⟨hm.trans (hm'.trans hmode), hz.trans (hz'.trans hzones), hposts.causes 4 (postEvent_cause _ _ _ _ _ rfl),
    fun hs => hreport.trans (hsame hs), fun hs => ?_⟩
  rw [hreport]
  exact hmoved hs

theorem loaded_of_invalid {s : State} (h : mapFault (headerCount (headWords s)) (zonesOfWords (headWords s)) ≠ none) :
    (loaded s).path.mode = .transparent ∧ (loaded s).path.zones = [] ∧ (loaded s).cmd.causes.getLsbD 0 = true := by
  obtain ⟨⟨reason, i⟩, hfault⟩ := Option.ne_none_iff_exists'.mp h
  rw [loaded, applyMap_of_invalid hfault]
  have hposts := clampedEvents_posts (headWords (finishHead s)) (postEvent .mapInvalid none (word reason) (word i)
    (setMap .transparent [] (copied (headWords (finishHead s)) s)))
  obtain ⟨hm, hz, -⟩ := hposts.units
  obtain ⟨hm', hz', -⟩ := (postEvent_posts (setMap .transparent [] (copied (headWords (finishHead s)) s)) .mapInvalid none
    (word reason) (word i)).units
  exact ⟨hm.trans hm', hz.trans hz', hposts.causes 0 (postEvent_cause _ _ _ _ _ rfl)⟩

/-- What the completion of a soft reset and the end of the step leave of the state `v` in which LOADING ends. -/
theorem finish_ended_frame {v : State} (hlength : TableOfWafers v) (resetting : Bool) :
    ∃ t, t = finish (noteWait (if resetting = true then completeReset v else v)) ∧
      t.cmd.paramRaw = v.cmd.paramRaw ∧ t.cmd.paramsValid = v.cmd.paramsValid ∧ t.cmd.causes = v.cmd.causes ∧
      t.path.mode = v.path.mode ∧ t.path.zones = v.path.zones ∧ t.report = v.report := by
  refine ⟨_, rfl, ?_⟩
  obtain ⟨w, h, o, hfinish⟩ := finish_frame (noteWait (if resetting = true then completeReset v else v))
  rw [hfinish]
  cases resetting with
  | false => exact ⟨rfl, rfl, rfl, rfl, rfl, rfl⟩
  | true =>
    obtain ⟨q, n, d, hframe, -⟩ := completeReset_frame hlength
    rw [if_pos rfl, hframe]
    exact ⟨rfl, rfl, rfl, rfl, rfl, rfl⟩

/-- The completed soft reset, field by field: `v` is the state in which LOADING ends. -/
theorem finish_completeReset {v : State} (hlength : TableOfWafers v) {t : State}
    (ht : t = finish (noteWait (completeReset v))) :
    t.cmd.resetting = false ∧ t.path.held = [] ∧ t.handling.prealign = none ∧
    (∀ i w, waferAt v i = some w → w.location ≠ .slot → ∃ x l, waferAt t i = some x ∧
      x.location = w.location ∧ x.phase = .reviewDone ∧ x.outcome = some .aborted ∧ x.acc = none ∧
      t.lots = ⟨some l, none⟩ ∧ l.number = 0 ∧ l.state = .closing ∧ l.run = x.run) ∧
    (∀ i w, waferAt v i = some w → w.location = .slot → waferAt t i = none) ∧
    ((∀ i w, waferAt v i = some w → w.location = .slot) → t.lots = ⟨none, none⟩) ∧
    ((∃ i w, waferAt v i = some w ∧ w.location = .unknown) → t.handling.state = .halted) ∧
    ((∀ i w, waferAt v i = some w → w.location ≠ .unknown) → ∃ u, t = finish u ∧
      u.handling = { v.handling with state := .idle, prealign := none, removals := [], runDue := true }) := by
  obtain ⟨q, n, d, hframe, hq⟩ := completeReset_frame hlength
  have hlengthDone : TableOfWafers (resetDone v) := hlength
  have hunknown := anyUnknown_buildLotZero hlengthDone
  have hrecords : ∀ i, waferAt (noteWait (completeReset v)) i = keepRecord v.nextRun (waferAt v i) :=
    waferAt_keepRecord v.nextRun (by rw [noteWait_wafers, hframe])
  have hsame : ∀ i, waferAt t i = keepRecord v.nextRun (waferAt v i) := fun i => by
    rw [ht, waferAt_finish (fun j x hx => ?_), hrecords]
    obtain ⟨w, -, -, rfl⟩ := keepRecord_eq_some ((hrecords j).symm.trans hx)
    nofun
  have hhandling : (noteWait (completeReset v)).handling =
      if anyUnknown (buildLotZero (resetDone v)) = true
      then { v.handling with prealign := none, removals := [], state := .halted, runDue := d }
      else { v.handling with prealign := none, removals := [], state := .idle, runDue := true } := by
    rw [noteWait_handling, hframe]
  obtain ⟨w', h', o', hfinish⟩ := finish_frame (noteWait (completeReset v))
  have hlots : t.lots = q := by
    rw [ht, hfinish, hframe]
    rfl
  refine ⟨?_, ?_, ?_, fun i w hw hout => ?_, fun i w hw hslot => ?_, fun hall => ?_, fun hex => ?_, fun hall => ?_⟩
  · rw [ht, hfinish, hframe]
    rfl
  · rw [ht, hfinish, hframe]
    rfl
  · rw [ht, finish_prealign, hhandling]
    split <;> rfl
  · refine ⟨keptWafer v.nextRun w, { lotZero v.nextRun with state := .closing }, ?_, rfl, rfl, rfl, rfl, ?_, rfl, rfl, rfl⟩
    · rw [hsame, hw, keepRecord_out _ hout]
    · rw [hlots, hq, buildLotZero_of_some hlengthDone ⟨i, w, hw, hout⟩]
      rfl
  · rw [hsame, hw, keepRecord_slot _ hslot]
  · rw [hlots, hq, buildLotZero_of_none (s := resetDone v) hall]
  · rw [ht]
    refine finish_halted ?_
    rw [hhandling, if_pos (hunknown.mpr hex)]
  · refine ⟨_, ht, ?_⟩
    rw [hhandling, if_neg fun h => ?_]
    obtain ⟨i, w, hw, hl⟩ := hunknown.mp h
    exact hall i w hw hl

/-- Settles O52. -/
theorem loadingEnds : Obligations.LoadingEnds := by
  refine ⟨fun s hmode hjobs hlength => ?units, fun s hmode hjobs => ?whole, sameZone_iff, fun s js hjs => ?words⟩
  case units =>
    intro block area zones fault
    have hloads := loaded_loads s
    obtain ⟨m, md, zs, js, ps, c, f, r, o, hframe⟩ := hloads.frame
    have hwafers : (loaded s).wafers = s.wafers := by rw [hframe]
    have htable : TableOfWafers (loaded s) := (congrArg List.length hwafers).trans hlength
    obtain ⟨t, ht, hparam, hvalid, hcauses, hpathMode, hpathZones, hreport⟩ := finish_ended_frame htable s.cmd.resetting
    refine ⟨t, (exec_loadmapComplete hmode hjobs).trans (congrArg _ ht.symm), hparam.trans hloads.paramRaw,
      hvalid.trans hloads.paramsValid, fun hf => ?_, fun hf hz => ?_, fun hf hz => ?_, fun hf => ?_, fun hr => ?_,
      fun hr => ?_⟩
    · obtain ⟨hmapped, hzones, hcause, -⟩ := loaded_of_valid hf
      exact ⟨hpathMode.trans hmapped, hpathZones.trans hzones, hcauses ▸ hcause⟩
    · rw [hreport]
      exact (loaded_of_valid hf).2.2.2.2 hz
    · rw [hreport, (loaded_of_valid hf).2.2.2.1 hz]
      exact ⟨rfl, rfl⟩
    · obtain ⟨hmapped, hzones, hcause⟩ := loaded_of_invalid hf
      exact ⟨hpathMode.trans hmapped, hpathZones.trans hzones, hcauses ▸ hcause⟩
    · obtain ⟨w, h, o', hfinish⟩ := finish_frame (noteWait (if s.cmd.resetting = true then completeReset (loaded s)
        else loaded s))
      rw [ht, hfinish, hr, hframe]
      exact ⟨rfl, rfl⟩
    · have hrecords : ∀ i, waferAt s i = waferAt (loaded s) i := fun i => (waferAt_congr hwafers i).symm
      have hhandling : s.handling = (loaded s).handling := by rw [hframe]
      rw [hr, if_pos rfl] at ht
      simp only [hrecords, hhandling]
      exact finish_completeReset htable ht
  case whole =>
    intro block area zones count generation read copied' bounded inMode mapped emptied withReports withEvents clamped ended
    have hexec := exec_loadmapComplete hmode hjobs
    have hread : read.cmd = s.cmd := (finishHead_cmd _).trans (finishHead_cmd s)
    have hparam : ∀ n, param read n = param s n := fun n => param_congr hread n
    have hcopied : copiedState area read = copied' := by rw [copiedState, hread]
    have hbounded : copied area s = bounded := by
      refine (copyParams_eq area read).trans ?_
      rw [hparam, hparam, hread, hcopied]
    have hreports : setReportSide s.path.zones zones mapped = withReports := by
      by_cases hsame : sameZone s.path.zones zones .reports = true
      · exact (if_pos hsame).trans (if_pos hsame).symm
      · refine (if_neg hsame).trans (Eq.trans ?_ (if_neg hsame).symm)
        unfold moveReportRing zoneIn
        dsimp only
        cases zones.find? fun z => z.kind == .reports <;> rfl
    have hrings : withRings zones area s = withEvents := by
      rw [withRings, hbounded]
      exact congrArg (setEventSide s.path.zones zones) hreports
    refine ⟨fun hf => ?_, fun reason i hf => ?_⟩
    · have hloaded : loaded s = clamped (postEvent .mapReloaded none (word generation) (word count) withEvents) := by
        rw [loaded, applyMap_of_valid hf, ← hrings]
        rfl
      rw [hloaded] at hexec
      exact hexec
    · have hloaded : loaded s = clamped (postEvent .mapInvalid none (word reason) (word i) (inMode .transparent [])) := by
        rw [loaded, applyMap_of_invalid hf, hbounded]
        rfl
      rw [hloaded] at hexec
      exact hexec
  case words =>
    refine ⟨headWords_of_mapBlock hjs, ?_⟩
    rw [finishHead_of_mapBlock hjs]
    exact headWords_of_paramArea rfl

end Sys2Proof.Machine
end

-- ==== Proofs: words that memory takes or drops ====
section
/-! SUPPORT. The settlement of `UpstreamWrite` (O56): which bytes are protected, and what a word with no row of its
own does. -/

namespace Sys2Proof.Machine

/-! ## Protection (R167, R178, R180) -/

/-- A byte lies on the side of a GUARDED zone that its exponent cuts off, at the low or the high end (R167). -/
def OnGuardedSide (z : Zone) (a : Nat) : Prop :=
  if z.high = true then 4096 * z.page + 4096 * z.pages ≤ a + 4096 * z.pages / 2 ^ z.exponent
  else a < 4096 * z.page + 4096 * z.pages / 2 ^ z.exponent

/-- A byte lies in a layout record of a zone that a queued lot references (R180). -/
def InUsedLayout (s : State) (z : Zone) (a : Nat) : Prop :=
  ∃ l ∈ lotList s, ∃ k, l.layoutIndex = some k ∧ 4096 * z.page + 64 * k ≤ a ∧ a < 4096 * z.page + 64 * k + 64

/-- A descriptor of a map protects a byte (R167, R178, R180). -/
def ZoneProtects (s : State) (z : Zone) (a : Nat) : Prop :=
  4096 * z.page ≤ a ∧ a < 4096 * z.page + 4096 * z.pages ∧ (z.kind = .events ∨ z.kind = .reports ∨
    (z.kind = .guarded ∧ (OnGuardedSide z a ↔ z.complement = false)) ∨ (z.kind = .layout ∧ InUsedLayout s z a))

theorem covers_iff (z : Zone) (a : Nat) :
    z.covers a = true ↔ 4096 * z.page ≤ a ∧ a < 4096 * z.page + 4096 * z.pages := by
  unfold Zone.covers
  rw [Bool.and_eq_true, decide_eq_true_eq, decide_eq_true_eq]
  unfold Zone.stop Zone.base
  omega

theorem guards_iff (z : Zone) (a : Nat) :
    z.guards a = true ↔ z.covers a = true ∧ (OnGuardedSide z a ↔ z.complement = false) := by
  have hside : (if z.high then decide (z.stop - z.pages * 4096 / 2 ^ z.exponent ≤ a)
      else decide (a < z.base + z.pages * 4096 / 2 ^ z.exponent)) = true ↔ OnGuardedSide z a := by
    have hbase : 4096 * z.page = z.base := Nat.mul_comm _ _
    have hstop : z.base + z.pages * 4096 = z.stop := rfl
    unfold OnGuardedSide
    rw [Nat.mul_comm 4096 z.pages, hbase, hstop]
    cases z.high
    · simp
    · simp
  unfold Zone.guards
  dsimp only
  rw [Bool.and_eq_true, ← hside, bne_iff_ne]
  refine and_congr_right fun _ => ?_
  generalize (if z.high then _ else _ : Bool) = near
  cases near <;> cases z.complement <;> simp

theorem layoutInUse_iff (s : State) (z : Zone) (a : Nat) :
    layoutInUse s z a = true ↔ z.covers a = true ∧ InUsedLayout s z a := by
  have hbase : z.base = 4096 * z.page := Nat.mul_comm _ _
  simp only [layoutInUse, List.any_eq_true, Option.any_eq_true, Bool.and_eq_true, decide_eq_true_eq, hbase,
    InUsedLayout]
  constructor
  · rintro ⟨l, hl, k, hk, ⟨hc, hlow⟩, hhigh⟩
    exact ⟨hc, l, hl, k, hk, hlow, hhigh⟩
  · rintro ⟨hc, l, hl, k, hk, hlow, hhigh⟩
    exact ⟨l, hl, k, hk, ⟨hc, hlow⟩, hhigh⟩

theorem zoneProtects_iff (s : State) (z : Zone) (a : Nat) : zoneProtects s z a = true ↔ ZoneProtects s z a := by
  unfold zoneProtects ZoneProtects
  rw [← and_assoc, ← covers_iff]
  cases hk : z.kind <;> simp [guards_iff, layoutInUse_iff]

/-- A descriptor in force protects a byte: the path is MAPPED, and it is one of the map (R170). -/
theorem zoneProtects_zoneAt_iff (s : State) (i a : Nat) : zoneProtects s (zoneAt s i) a = true ↔
    s.path.mode = .mapped ∧ ∃ z, s.path.zones[i]? = some z ∧ ZoneProtects s z a := by
  have hunused : zoneProtects s Zone.unused a = false := rfl
  unfold zoneAt
  by_cases hm : s.path.mode = .mapped
  · rw [if_pos hm, List.getD_eq_getElem?_getD]
    cases hz : s.path.zones[i]? with
    | none => simp [hunused]
    | some z => simp [hm, zoneProtects_iff]
  · rw [if_neg hm]; simp [hunused, hm]

/-! ## Words with no row of their own -/

/-- A write to a word that is no row of its own has no effect beside memory (R166). -/
theorem watchWrite_of_noRow (index : BitVec 22) (w : WordWrite) (s : State) (h : rowOfItsOwn index w = false) :
    watchWrite (4 * index.toNat) w.data w.lanes s = s := by
  unfold rowOfItsOwn byteAddress at h
  dsimp only at h
  simp only [Bool.or_eq_false_iff, Bool.and_eq_false_iff, decide_eq_false_iff_not, beq_eq_false_iff_ne] at h
  obtain ⟨⟨⟨⟨hheader, hcommand⟩, hargs⟩, hcells⟩, hparams⟩ := h
  unfold watchWrite Config.pageBase
  split
  · rfl
  · unfold watchCell watchMapped writeCommandCell
    rcases hcommand with hne | hlane
    · rw [if_neg (by omega), if_neg (by omega), if_neg (by omega), if_neg (by omega)]
      split
      · rfl
      · rw [if_neg (by omega), if_neg (by omega), if_neg (by omega), if_neg (by omega)]
    · rw [if_neg (by omega), hlane]
      split
      · rfl
      · rw [if_neg (by omega), if_neg (by omega)]
        split
        · rfl
        · rw [if_neg (by omega), if_neg (by omega), if_neg (by omega), if_neg (by omega)]

theorem postingOf_of_noFlag (s : State) (a : Nat) (d : Word) (e : BitVec 4)
    (h : ¬ (a % 32 = 28 ∧ e.getLsbD 3 = true ∧ d.getLsbD 31 = true)) : postingOf s a d e = none :=
  if_neg fun hp => h ⟨hp.1, hp.2.1, hp.2.2.1⟩

theorem natureOf_of_protected {s : State} {u : UpWord} {d : Word} {e : BitVec 4} {i : Nat}
    (hu : u.access = .write d e) (hi : protectedBy s u.addr = some i) : natureOf s u = .dropped i := by
  unfold natureOf; rw [hu]; simp only [hi]

theorem natureOf_of_plain {s : State} {u : UpWord} {d : Word} {e : BitVec 4} (hu : u.access = .write d e)
    (hn : protectedBy s u.addr = none) (hp : postingOf s u.addr d e = none) : natureOf s u = .forwarded := by
  unfold natureOf; rw [hu]; simp only [hn, hp]

theorem natureOf_of_posting {s : State} {u : UpWord} {d : Word} {e : BitVec 4} {k : ZoneKind} {slot : Nat}
    (hu : u.access = .write d e) (hn : protectedBy s u.addr = none)
    (hp : postingOf s u.addr d e = some (k, slot)) : natureOf s u = .posting k slot := by
  unfold natureOf; rw [hu]; simp only [hn, hp]

/-! ## When a word must wait (R169, R172, R176, R184, R185) -/

theorem pathHolds_iff (s : State) : pathHolds s = true ↔ s.path.mode = .loading ∨ s.path.draining = true := by
  simp [pathHolds]

theorem onHeldSlot_write {s : State} {u : UpWord} {d : Word} {e : BitVec 4} (hu : u.access = .write d e) :
    onHeldSlot s u = true ↔ u.addr / 32 * 32 ∈ s.path.held := by
  unfold onHeldSlot; rw [hu]; simp

theorem onHeldSlot_read {s : State} {u : UpWord} (hu : u.access = .read) : onHeldSlot s u = false := by
  unfold onHeldSlot; rw [hu]

theorem yieldsToJobs_iff (s : State) (n : Nature) :
    yieldsToJobs s n = true ↔ n.carries = true ∧ 12 ≤ depth s ∧ s.path.upBurst ≠ .carried := by
  have hd : decide (Config.jobsFirstDepth ≤ depth s) = true ↔ 12 ≤ depth s := decide_eq_true_iff
  unfold yieldsToJobs
  rw [Bool.and_eq_true, Bool.and_eq_true, hd, bne_iff_ne, and_assoc]

theorem mustWait_eq_false {s : State} {u : UpWord} (hheld : pathHolds s = false) (hslot : onHeldSlot s u = false)
    (hplace : lacksPlace s (natureOf s u) = false) (hfirst : yieldsToJobs s (natureOf s u) = false) :
    mustWait s u = false := by
  simp [mustWait, hheld, hslot, hplace, hfirst]

theorem pathHolds_of_busFree {s : State} (h : BusFree s) : pathHolds s = false := by
  rw [Bool.eq_false_iff, Ne, pathHolds_iff]
  rintro (hl | hd)
  · exact h.notLoading hl
  · rw [h.notDraining] at hd; cases hd

theorem yieldsToJobs_of_shallow {s : State} (h : depth s < 12) (n : Nature) : yieldsToJobs s n = false := by
  rw [Bool.eq_false_iff, Ne, yieldsToJobs_iff]
  rintro ⟨_, hd, _⟩
  omega

theorem upstream_of_busFree {s : State} {u : UpWord} (h : BusFree s) (hslot : onHeldSlot s u = false)
    (hplace : lacksPlace s (natureOf s u) = false) : upstream u s = serveWord u s := by
  unfold upstream
  simp only [h.noneWaits]
  rw [mustWait_eq_false (pathHolds_of_busFree h) hslot hplace (yieldsToJobs_of_shallow h.shallow _)]
  rfl

/-! ## Serving a write -/

theorem serveAccess_dropped {s : State} {u : UpWord} {d : Word} {e : BitVec 4} {i : Nat}
    (hu : u.access = .write d e) (hn : natureOf s u = .dropped i) : serveAccess u s = dropWord i u.addr s := by
  unfold serveAccess; rw [hu]; simp only [hn]

theorem serveAccess_forwarded {s : State} {u : UpWord} {d : Word} {e : BitVec 4}
    (hu : u.access = .write d e) (hn : natureOf s u = .forwarded) :
    serveAccess u s = watchWrite u.addr d e (forward u.addr d e s) := by
  unfold serveAccess; rw [hu]; simp only [hn]

theorem serveAccess_posting {s : State} {u : UpWord} {d : Word} {e : BitVec 4} {k : ZoneKind} {slot : Nat}
    (hu : u.access = .write d e) (hn : natureOf s u = .posting k slot) :
    serveAccess u s = takePosting k slot d (forward u.addr d e s) := by
  unfold serveAccess; rw [hu]; simp only [hn]

/-- The burst of a word after it is served: it has the bus from its first word that goes to memory on (R185). -/
theorem takeBus_eq (u : UpWord) (s : State) : takeBus u s = { s with path := { s.path with
    upBurst := s.path.upBurst.after (natureOf s u).carries u.more } } := rfl

theorem after_begun (more : Bool) (b : UpBurst) :
    b.after false more = if more then (if b = .carried then .carried else .begun) else .none := by
  cases more <;> cases b <;> rfl

theorem dropWord_runDue (i a : Nat) (s : State) (h : NoRunDue s) : NoRunDue (dropWord i a s) := by
  unfold dropWord reportDrop
  split
  · exact h
  · refine postEvent_noRunDue ?_ _ _ _ _
    exact h

theorem serveWord_dropped {s : State} {u : UpWord} {d : Word} {e : BitVec 4} {i : Nat} (hrun : NoRunDue s)
    (hu : u.access = .write d e) (hi : protectedBy s u.addr = some i) :
    serveWord u s = dropWord i u.addr { s with path := { s.path with
      upBurst := if u.more then (if s.path.upBurst = .carried then .carried else .begun) else .none } } := by
  have hn := natureOf_of_protected hu hi
  unfold serveWord
  rw [serveAccess_dropped hu ((natureOf_takeBus s u u).trans hn), finish_idle _ (dropWord_runDue i u.addr (takeBus u s) hrun),
    takeBus_eq, hn]
  exact congrArg (fun b => dropWord i u.addr { s with path := { s.path with upBurst := b } })
    (after_begun u.more s.path.upBurst)

/-- A write forwarded to a word that no unit watches changes memory, and the burst, alone (R178). -/
theorem serveWord_forwarded {s : State} {u : UpWord} {d : Word} {e : BitVec 4} (hrun : NoRunDue s)
    (hu : u.access = .write d e) (hn : natureOf s u = .forwarded)
    (hwatch : ∀ t, watchWrite u.addr d e t = t) :
    serveWord u s = { s with
      mem := writeWord s.mem u.addr d e
      path := { s.path with upBurst := if u.more then .carried else .none } } := by
  unfold serveWord
  rw [serveAccess_forwarded hu ((natureOf_takeBus s u u).trans hn), hwatch,
    finish_idle (forward u.addr d e (takeBus u s)) hrun, takeBus_eq, hn]
  exact congrArg (fun b => forward u.addr d e { s with path := { s.path with upBurst := b } })
    (after_carried u.more s.path.upBurst)

/-- Settles O56: the word is no row of its own, so that it acts by its nature alone; protection by the meaning of
each kind of descriptor. -/
theorem upstreamWrite : Obligations.UpstreamWrite := by
  refine ⟨fun index w s hbus hrun hwf => ?_, fun s a => ?_⟩
  · intro a hheld
    have hslot : onHeldSlot s (memoryWrite index w) = false := by
      rw [Bool.eq_false_iff, Ne, onHeldSlot_write (d := w.data) (e := w.lanes) rfl]
      exact hheld
    have hrow : rowOfItsOwn index w = false := by simpa [Instr.wellFormed] using hwf
    refine ⟨fun i hi => ?_, fun hn hflag => ?_⟩
    · have hdrop : natureOf s (memoryWrite index w) = .dropped i := natureOf_of_protected (d := w.data) (e := w.lanes) rfl hi
      refine congrArg Host.Outcome.next ((upstream_of_busFree hbus hslot (by rw [hdrop]; rfl)).trans ?_)
      exact serveWord_dropped hrun rfl hi
    · have hfwd : natureOf s (memoryWrite index w) = .forwarded :=
        natureOf_of_plain (d := w.data) (e := w.lanes) rfl hn (postingOf_of_noFlag s a w.data w.lanes hflag)
      refine congrArg Host.Outcome.next ((upstream_of_busFree hbus hslot (by rw [hfwd]; rfl)).trans ?_)
      exact serveWord_forwarded hrun rfl hfwd fun t => watchWrite_of_noRow index w t hrow
  · intro protects
    have hprotects (i : Nat) : protects i ↔ zoneProtects s (zoneAt s i) a = true :=
      (zoneProtects_zoneAt_iff s i a).symm
    refine ⟨fun i => ?_, ?_⟩
    · simp only [protectedBy, List.find?_range_eq_some, hprotects]
      simp only [List.mem_range, Bool.not_eq_true', Bool.not_eq_true]
      tauto
    · simp only [protectedBy, List.find?_eq_none, List.mem_range, hprotects]

end Sys2Proof.Machine
end

-- ==== Proofs: words served and words waiting ====
section
/-! SUPPORT. What serving an upstream word leaves of the words that wait, when a word waits for a queue place, and what
a run of reads does: rules about the bus that the rows of the path unit share. -/

namespace Sys2Proof.Machine

/-! ## A word that is served leaves the words that wait (R176) -/

section Waiting

variable (s : State)

theorem clearGuard_upWait : (clearGuard s).path.upWait = s.path.upWait := by
  have hcleared := visit_keeps (setGuard .normal s) { s.visit with hold := { s.visit.hold with guard := false } }
  unfold clearGuard
  exact ((((hcleared.trans (dispatch_keeps _)).trans (refreshOutput_keeps _)).trans (wantPlan_keeps _)).trans
    (releaseEvent_keeps _ _ _)).upWait

theorem cmdGuardClear_upWait : (cmdGuardClear s).path.upWait = s.path.upWait := by
  unfold cmdGuardClear
  split
  · rfl
  · rfl
  · split
    · rfl
    · exact clearGuard_upWait (answer .accepted s)

theorem cmdSoftReset_upWait : (cmdSoftReset s).path.upWait = s.path.upWait := by
  unfold cmdSoftReset resetRecords resetFocus resetVisit haltMove
  split <;> rfl

theorem carryOut_upWait (value : Nat) : (carryOut value s).path.upWait = s.path.upWait := by
  by_cases hclear : value = 10
  · rw [hclear]; exact cmdGuardClear_upWait s
  by_cases hreset : value = 13
  · rw [hreset]; exact cmdSoftReset_upWait s
  exact (carryOut_keeps s hclear hreset).upWait

theorem takeCommand_upWait (value : Byte) : (takeCommand value s).path.upWait = s.path.upWait := by
  unfold takeCommand
  dsimp only
  split
  · rfl
  · exact carryOut_upWait (countCommand value s) _

theorem writeParameter_upWait (n : Nat) (d : Word) (e : BitVec 4) :
    (writeParameter n d e s).path.upWait = s.path.upWait := by
  unfold writeParameter
  split
  · rfl
  · dsimp only
    refine (clampEvent_keeps _ _ _).upWait.trans ?_
    split
    · exact (reclampOutput_keeps _).upWait
    · rfl

theorem watchMapped_upWait (offset : Nat) (d : Word) (e : BitVec 4) :
    (watchMapped offset d e s).path.upWait = s.path.upWait := by
  unfold watchMapped
  split
  · rfl
  split
  · unfold writeEventConsumer
    split
    · rfl
    · dsimp only
      split <;> rfl
  split
  · exact (writeReportConsumer_keeps s d e).upWait
  split
  · rfl
  split
  · exact writeParameter_upWait s _ d e
  · rfl

theorem watchCell_upWait (offset : Nat) (d : Word) (e : BitVec 4) :
    (watchCell offset d e s).path.upWait = s.path.upWait := by
  unfold watchCell
  split
  · exact (requestReload_keeps s).upWait
  split
  · unfold writeCommandCell
    split
    · exact takeCommand_upWait s _
    · rfl
  split
  · rfl
  split
  · rfl
  · exact watchMapped_upWait s _ d e

theorem watchWrite_upWait (a : Nat) (d : Word) (e : BitVec 4) :
    (watchWrite a d e s).path.upWait = s.path.upWait := by
  unfold watchWrite
  split
  · rfl
  · exact watchCell_upWait s _ d e

theorem dropWord_upWait (i a : Nat) : (dropWord i a s).path.upWait = s.path.upWait := by
  unfold dropWord reportDrop
  split
  · rfl
  · exact (postEvent_keeps _ _ _ _ _).upWait

theorem serveAccess_upWait (u : UpWord) : (serveAccess u s).path.upWait = s.path.upWait := by
  unfold serveAccess
  split
  · unfold serveRead
    split <;> rfl
  · split
    · rfl
    · rfl
    · exact dropWord_upWait s _ _
    · rfl
    · exact watchWrite_upWait _ _ _ _

theorem serveWord_upWait (u : UpWord) : (serveWord u s).path.upWait = s.path.upWait :=
  (finish_keeps _).upWait.trans (serveAccess_upWait (takeBus u s) u)

end Waiting

/-! ## The FETCH of a word that waits (R175, R184) -/

theorem isPosting_iff (s : State) (u : UpWord) : isPosting s u = true ↔
    ∃ d e k slot, u.access = .write d e ∧ natureOf s u = .posting k slot := by
  unfold isPosting natureOf
  cases hu : u.access with
  | read => simp
  | write d e =>
    cases hp : protectedBy s u.addr with
    | some i => simp
    | none =>
      cases hq : postingOf s u.addr d e with
      | none => simp [hq]
      | some x => simp [hq]

theorem waitsForPlace_iff (s : State) (u : UpWord) : waitsForPlace s u = true ↔
    ∃ d e k slot, u.access = .write d e ∧ s.path.mode ≠ .loading ∧ s.path.draining = false ∧
      u.addr / 32 * 32 ∉ s.path.held ∧ natureOf s u = .posting k slot ∧
      ¬ (depth s < 16 ∧ (s.path.waiters = [] ∨ s.path.waiters.head? = some .fetch)) := by
  have hopen : (!pathHolds s) = true ↔ s.path.mode ≠ .loading ∧ s.path.draining = false := by
    simp [pathHolds]
  have hplace : (!mayTakePlace s .fetch) = true ↔
      ¬ (depth s < 16 ∧ (s.path.waiters = [] ∨ s.path.waiters.head? = some .fetch)) := by
    rw [Bool.not_eq_true', Bool.eq_false_iff, Ne, mayTakePlace_iff]
  unfold waitsForPlace
  rw [Bool.and_eq_true, Bool.and_eq_true, Bool.and_eq_true, hopen, hplace, isPosting_iff]
  constructor
  · rintro ⟨⟨⟨⟨hm, hdr⟩, hslot⟩, d, e, k, slot, hu, hn⟩, hp⟩
    refine ⟨d, e, k, slot, hu, hm, hdr, fun hheld => ?_, hn, hp⟩
    rw [(onHeldSlot_write hu).mpr hheld] at hslot
    cases hslot
  · rintro ⟨d, e, k, slot, hu, hm, hdr, hslot, hn, hp⟩
    refine ⟨⟨⟨⟨hm, hdr⟩, ?_⟩, d, e, k, slot, hu, hn⟩, hp⟩
    rw [Bool.not_eq_true', Bool.eq_false_iff, Ne, onHeldSlot_write hu]
    exact hslot

theorem noteWait_of_waits {s : State} {u : UpWord} {us : List UpWord} (h : s.path.upWait = u :: us)
    (hw : waitsForPlace s u = true) :
    noteWait s = { s with path := { s.path with waiters := joinWaiters .fetch s.path.waiters } } := by
  unfold noteWait notedWaiters
  rw [h, List.head?_cons, Option.any_some, hw, if_pos rfl]

theorem noteWait_of_places {s : State} {u : UpWord} {us : List UpWord} (h : s.path.upWait = u :: us)
    (hw : waitsForPlace s u = false) : noteWait s = s :=
  noteWait_id s (by rw [h]; exact hw)

/-- A word that waits first and is no posting waits for no queue place. -/
theorem waitsForPlace_of_not_posting {s : State} {u : UpWord} (h : ∀ k slot, natureOf s u ≠ .posting k slot) :
    waitsForPlace s u = false := by
  rw [Bool.eq_false_iff, Ne, waitsForPlace_iff]
  rintro ⟨d, e, k, slot, _, _, _, _, hn, _⟩
  exact h k slot hn

theorem waitsForPlace_of_read {s : State} {u : UpWord} (h : u.access = .read) : waitsForPlace s u = false := by
  rw [Bool.eq_false_iff, Ne, waitsForPlace_iff]
  rintro ⟨d, e, k, slot, hu, _⟩
  rw [h] at hu
  cases hu

theorem waitsForPlace_of_held {s : State} {u : UpWord} (h : pathHolds s = true) : waitsForPlace s u = false := by
  unfold waitsForPlace; rw [h]; rfl

theorem waitsForPlace_of_place {s : State} {u : UpWord} (h : mayTakePlace s .fetch = true) :
    waitsForPlace s u = false := by
  unfold waitsForPlace; rw [h]; simp

theorem waitsForPlace_of_heldSlot {s : State} {u : UpWord} (h : onHeldSlot s u = true) :
    waitsForPlace s u = false := by
  unfold waitsForPlace; rw [h]; simp

/-! ## Words on the bus -/

theorem upstream_of_waiting {s : State} (u : UpWord) (h : s.path.upWait ≠ []) :
    upstream u s = { s with path := { s.path with upWait := s.path.upWait ++ [u] } } := by
  unfold upstream
  cases hw : s.path.upWait with
  | nil => exact absurd hw h
  | cons v us => rfl

theorem upstream_of_none {s : State} (u : UpWord) (h : s.path.upWait = []) :
    upstream u s = if mustWait s u = true then setWaiting [u] s else serveWord u s := by
  unfold upstream; simp only [h]

/-- Words that come behind others wait behind them (R182). -/
theorem upstreamBurst_of_waiting (us : List UpWord) {s : State} (h : s.path.upWait ≠ []) :
    upstreamBurst us s = { s with path := { s.path with upWait := s.path.upWait ++ us } } := by
  induction us generalizing s with
  | nil => simp [upstreamBurst]
  | cons u us ih =>
    have hcons : upstreamBurst (u :: us) s = upstreamBurst us (upstream u s) := rfl
    rw [hcons, upstream_of_waiting u h, ih (s := { s with path := { s.path with upWait := s.path.upWait ++ [u] } })
      (by simp)]
    simp

/-! ## Runs of reads (R181, R182, R185) -/

/-- The burst after words of it have been served. -/
def burstAfter (s : State) (us : List UpWord) (b : UpBurst) : UpBurst :=
  us.foldl (fun b u => b.after (natureOf s u).carries u.more) b

/-- The answers to the reads of some words, the latest first. -/
def answersTo (s : State) (us : List UpWord) : List Word := (us.map fun u => upstreamRead s u.addr).reverse

/-- A read of a word other than the cause cell, so that it changes no state (R182). -/
def PlainRead (u : UpWord) : Prop := u.access = .read ∧ u.addr ≠ 0xFFF128

/-- The state after reads have been served. -/
def readsServed (us : List UpWord) (s : State) : State :=
  { s with path := { s.path with
      upBurst := burstAfter s us s.path.upBurst, answered := answersTo s us ++ s.path.answered } }

theorem answersTo_cons (s : State) (u : UpWord) (us : List UpWord) (l : List Word) :
    answersTo s us ++ (answersTo s [u] ++ l) = answersTo s (u :: us) ++ l := by
  simp [answersTo]

theorem natureOf_read {s : State} {u : UpWord} (h : u.access = .read) :
    natureOf s u = if (overlaid s u.addr).isSome = true then .overlay else .memoryRead := by
  unfold natureOf; rw [h]

theorem carries_read {s : State} {u : UpWord} (h : u.access = .read) :
    (natureOf s u).carries = true ↔ overlaid s u.addr = none := by
  rw [natureOf_read h]
  cases overlaid s u.addr <;> simp [Nature.carries]

theorem lacksPlace_read {s : State} {u : UpWord} (h : u.access = .read) : lacksPlace s (natureOf s u) = false := by
  rw [natureOf_read h]
  cases overlaid s u.addr <;> rfl

/-- A read need not wait where the path is open, and it yields to no job (R182, R185). -/
theorem mustWait_read {s : State} {u : UpWord} (h : u.access = .read) (hopen : pathHolds s = false) :
    mustWait s u = yieldsToJobs s (natureOf s u) := by
  simp [mustWait, hopen, onHeldSlot_read h, lacksPlace_read h]

theorem serveWord_read {s : State} {u : UpWord} (hrun : NoRunDue s) (h : PlainRead u) :
    serveWord u s = { s with path := { s.path with
      upBurst := s.path.upBurst.after (natureOf s u).carries u.more
      answered := upstreamRead s u.addr :: s.path.answered } } := by
  have hserve : serveAccess u (takeBus u s) = answerRead u.addr (takeBus u s) := by
    unfold serveAccess
    rw [h.1]
    exact if_neg h.2
  unfold serveWord
  rw [hserve]
  exact finish_idle (answerRead u.addr (takeBus u s)) hrun

theorem serveWord_read_eq {s : State} {u : UpWord} (hrun : NoRunDue s) (h : PlainRead u) :
    serveWord u s = readsServed [u] s := serveWord_read hrun h

theorem readsServed_cons (u : UpWord) (us : List UpWord) (s : State) :
    readsServed us (readsServed [u] s) = readsServed (u :: us) s :=
  congrArg (fun l => ({ s with path := { s.path with
    upBurst := burstAfter s (u :: us) s.path.upBurst, answered := l } } : State)) (answersTo_cons s u us s.path.answered)

/-- A run of reads of an open path is served, where the jobs do not go first: the queue is shallow, or the burst has
the bus already, or no word of it goes to memory (R182, R185). -/
theorem upstreamBurst_reads (us : List UpWord) {s : State} (hrun : NoRunDue s) (hnone : s.path.upWait = [])
    (hopen : pathHolds s = false) (hread : ∀ u ∈ us, PlainRead u) (hmore : ∀ u ∈ us, u.more = true)
    (hfirst : depth s < 12 ∨ s.path.upBurst = .carried ∨ ∀ u ∈ us, (natureOf s u).carries = false) :
    upstreamBurst us s = readsServed us s := by
  induction us generalizing s with
  | nil => rfl
  | cons u us ih =>
    obtain ⟨hu, hus⟩ := List.forall_mem_cons.mp hread
    obtain ⟨hm, hms⟩ := List.forall_mem_cons.mp hmore
    have hyield : yieldsToJobs s (natureOf s u) = false := by
      rw [Bool.eq_false_iff, Ne, yieldsToJobs_iff]
      rintro ⟨hcarries, hdeep, hbus⟩
      rcases hfirst with hshallow | hcarried | hstate
      · omega
      · exact hbus hcarried
      · rw [hstate u (List.mem_cons_self ..)] at hcarries; cases hcarries
    have hstep : upstream u s = readsServed [u] s := by
      rw [upstream_of_none u hnone, mustWait_read hu.1 hopen, hyield]
      exact serveWord_read_eq hrun hu
    have hrest : upstreamBurst us (readsServed [u] s) = readsServed us (readsServed [u] s) := by
      refine ih (s := readsServed [u] s) hrun hnone hopen hus hms ?_
      rcases hfirst with hshallow | hcarried | hstate
      · exact .inl hshallow
      · refine .inr (.inl ?_)
        change s.path.upBurst.after _ u.more = .carried
        rw [hcarried, hm]
        simp [UpBurst.after]
      · exact .inr (.inr fun v hv => hstate v (List.mem_cons_of_mem _ hv))
    have hcons : upstreamBurst (u :: us) s = upstreamBurst us (upstream u s) := rfl
    rw [hcons, hstep, hrest, readsServed_cons]

/-- A run of reads keeps the bus, or takes it with its first word that goes to memory (R185). -/
theorem burstAfter_carried_iff (s : State) (us : List UpWord) (hmore : ∀ u ∈ us, u.more = true) (b : UpBurst) :
    burstAfter s us b = .carried ↔ b = .carried ∨ ∃ u ∈ us, (natureOf s u).carries = true := by
  induction us generalizing b with
  | nil => simp [burstAfter]
  | cons u us ih =>
    obtain ⟨hm, hms⟩ := List.forall_mem_cons.mp hmore
    have hcons : burstAfter s (u :: us) b = burstAfter s us (b.after (natureOf s u).carries u.more) := rfl
    have hone : b.after (natureOf s u).carries u.more = .carried ↔ b = .carried ∨ (natureOf s u).carries = true := by
      rw [hm]; cases b <;> cases (natureOf s u).carries <;> simp [UpBurst.after]
    rw [hcons, ih hms, hone, List.exists_mem_cons_iff, or_assoc]

theorem after_eq (c more : Bool) (b : UpBurst) : b.after c more =
    if more = false then .none else if c = true ∨ b = .carried then .carried else .begun := by
  cases c <;> cases more <;> cases b <;> rfl

end Sys2Proof.Machine
end

-- ==== Proofs: postings and accesses that wait ====
section
/-! SUPPORT. The settlement of `PostingAndResume` (O57). -/

namespace Sys2Proof.Machine

/-! ## A posting (R175, R176, R184) -/

/-- A posting that is served is forwarded, its FETCH job is queued, and its slot is held (R175). -/
theorem serveWord_posting {s : State} {u : UpWord} {d : Word} {e : BitVec 4} {k : ZoneKind} {slot : Nat}
    (hrun : NoRunDue s) (hu : u.access = .write d e) (hn : natureOf s u = .posting k slot) :
    serveWord u s = pushJob ⟨.fetch slot k (lane d 0) (d.getLsbD 30), [.read (slot + 4) 6], []⟩ { s with
      mem := writeWord s.mem u.addr d e
      path := { s.path with
        upBurst := if u.more then .carried else .none
        waiters := s.path.waiters.filter fun q => q != Producer.fetch
        held := s.path.held ++ [slot] } } := by
  have hserve := serveAccess_posting hu ((natureOf_takeBus s u u).trans hn)
  have hidle : finish (takePosting k slot d (forward u.addr d e (takeBus u s)))
      = takePosting k slot d (forward u.addr d e (takeBus u s)) := finish_idle _ hrun
  unfold serveWord
  rw [hserve, hidle, takeBus_eq, hn]
  have hbus := after_carried u.more s.path.upBurst
  have hfilter := filter_ne_producer .fetch s.path.waiters
  rw [← hbus, ← hfilter]
  rfl

section Posting

variable {index : BitVec 22} {w : WordWrite} {s : State}

theorem postingOf_of_wellFormed (hwf : (Instr.posting index w).wellFormed = true) (s : State) :
    postingOf s (4 * index.toNat) w.data w.lanes =
      if s.cmd.resetting = false then slotAt s (4 * index.toNat) else none := by
  simp only [Instr.wellFormed, tagPlace, setsPostFlag, byteAddress, Bool.and_eq_true, beq_iff_eq] at hwf
  obtain ⟨⟨hplace, _⟩, hlane, hflag⟩ := hwf
  have htag : 4 * index.toNat % 32 = 28 := by omega
  unfold postingOf
  simp [htag, hlane, hflag]

theorem watchWrite_posting (hwf : (Instr.posting index w).wellFormed = true) (t : State) :
    watchWrite (4 * index.toNat) w.data w.lanes t = t := by
  simp only [Instr.wellFormed, tagPlace, byteAddress, Bool.and_eq_true] at hwf
  obtain ⟨⟨_, hlow⟩, _⟩ := hwf
  exact if_pos (of_decide_eq_true hlow)

/-- A word that comes to an open path and must not wait is served; a word that carries data waits for the head job from
a depth of 12 on, unless its burst has the bus (R185). -/
theorem yieldsToJobs_of_goesFirst {n : Nature} (h : depth s < 12 ∨ s.path.upBurst = .carried) :
    yieldsToJobs s n = false := by
  rw [Bool.eq_false_iff, Ne, yieldsToJobs_iff]
  rintro ⟨_, hdeep, hbus⟩
  rcases h with hshallow | hcarried
  · omega
  · exact hbus hcarried

theorem yieldsToJobs_of_not_goesFirst {n : Nature} (hn : n.carries = true)
    (h : ¬ (depth s < 12 ∨ s.path.upBurst = .carried)) : yieldsToJobs s n = true := by
  rw [yieldsToJobs_iff]
  rw [not_or] at h
  exact ⟨hn, by omega, h.2⟩

/-- The first word to wait stands alone, and gives the bus up (R182). -/
theorem upstream_waits {u : UpWord} (hnone : s.path.upWait = []) (hwait : mustWait s u = true) :
    upstream u s = noteWait { s with path := { s.path with upWait := [u], upBurst := .none } } := by
  rw [upstream_of_none u hnone, hwait]; rfl

theorem upstream_served {u : UpWord} (hnone : s.path.upWait = []) (hwait : mustWait s u = false) :
    upstream u s = serveWord u s := by
  rw [upstream_of_none u hnone, hwait]; rfl

theorem mustWait_of_heldSlot {u : UpWord} (h : onHeldSlot s u = true) : mustWait s u = true := by
  simp [mustWait, h]

theorem mustWait_of_lacksPlace {u : UpWord} (h : lacksPlace s (natureOf s u) = true) : mustWait s u = true := by
  simp [mustWait, h]

theorem mustWait_of_yields {u : UpWord} (h : yieldsToJobs s (natureOf s u) = true) : mustWait s u = true := by
  simp [mustWait, h]

theorem mustWait_of_pathHolds {u : UpWord} (h : pathHolds s = true) : mustWait s u = true := by
  simp [mustWait, h]

end Posting

section PostingRow

variable {index : BitVec 22} {w : WordWrite} {s : State} (hrun : NoRunDue s) (hnone : s.path.upWait = [])
  (hmapped : s.path.mode = .mapped) (hdrain : s.path.draining = false)
  (hwf : (Instr.posting index w).wellFormed = true) (hplain : protectedBy s (4 * index.toNat) = none)

/-- What POSTING leaves where its word waits (R176). -/
def postingWaits (index : BitVec 22) (w : WordWrite) (s : State) : State :=
  { s with path := { s.path with upWait := [memoryWrite index w], upBurst := .none } }

include hmapped hdrain in
theorem pathHolds_of_mapped : pathHolds s = false := by
  simp [pathHolds, hmapped, hdrain]

include hnone in
theorem upstream_postingWaits (hwait : mustWait s (memoryWrite index w) = true)
    (hplace : waitsForPlace (postingWaits index w s) (memoryWrite index w) = false) :
    upstream (memoryWrite index w) s = postingWaits index w s :=
  (upstream_waits hnone hwait).trans (noteWait_of_places (s := postingWaits index w s) rfl hplace)

include hrun hnone hmapped hdrain hwf hplain in
/-- A posting to a slot in force that is not held (R175, R184, R185). -/
theorem upstream_postingOfSlot {k : ZoneKind} {slot : Nat} (hslot : slotAt s (4 * index.toNat) = some (k, slot))
    (hreset : s.cmd.resetting = false) (hfree : 4 * index.toNat / 32 * 32 ∉ s.path.held) :
    (mayTakePlace s .fetch = true → depth s < 12 ∨ s.path.upBurst = .carried →
      upstream (memoryWrite index w) s = pushJob
        ⟨.fetch slot k (lane w.data 0) (w.data.getLsbD 30), [.read (slot + 4) 6], []⟩ { s with
          mem := writeWord s.mem (4 * index.toNat) w.data w.lanes
          path := { s.path with
            upBurst := if w.more then .carried else .none
            waiters := s.path.waiters.filter fun q => q != Producer.fetch
            held := s.path.held ++ [slot] } }) ∧
    (mayTakePlace s .fetch = true → ¬ (depth s < 12 ∨ s.path.upBurst = .carried) →
      upstream (memoryWrite index w) s = postingWaits index w s) ∧
    (mayTakePlace s .fetch = false → upstream (memoryWrite index w) s =
      { s with path := { (postingWaits index w s).path with waiters := joinWaiters .fetch s.path.waiters } }) := by
  have hopen : pathHolds s = false := pathHolds_of_mapped hmapped hdrain
  have hn : natureOf s (memoryWrite index w) = .posting k slot :=
    natureOf_of_posting (d := w.data) (e := w.lanes) rfl hplain
      ((postingOf_of_wellFormed hwf s).trans ((if_pos hreset).trans hslot))
  have hheld : onHeldSlot s (memoryWrite index w) = false := by
    rw [Bool.eq_false_iff, Ne, onHeldSlot_write (d := w.data) (e := w.lanes) rfl]
    exact hfree
  have hlacks : lacksPlace s (natureOf s (memoryWrite index w)) = !mayTakePlace s .fetch := by rw [hn]; rfl
  refine ⟨fun hplace hfirst => ?_, fun hplace hlast => ?_, fun hplace => ?_⟩
  · have hgo : mustWait s (memoryWrite index w) = false :=
      mustWait_eq_false hopen hheld (by rw [hlacks, hplace]; rfl) (yieldsToJobs_of_goesFirst hfirst)
    rw [upstream_served hnone hgo]
    exact serveWord_posting hrun rfl hn
  · have hyield : yieldsToJobs s (natureOf s (memoryWrite index w)) = true :=
      yieldsToJobs_of_not_goesFirst (by rw [hn]; rfl) hlast
    exact upstream_postingWaits hnone (mustWait_of_yields hyield) (waitsForPlace_of_place hplace)
  · have hwait : mustWait s (memoryWrite index w) = true := mustWait_of_lacksPlace (by rw [hlacks, hplace]; rfl)
    have hwaits : waitsForPlace (postingWaits index w s) (memoryWrite index w) = true := by
      rw [waitsForPlace_iff]
      refine ⟨w.data, w.lanes, k, slot, rfl, ?_, hdrain, hfree, hn, ?_⟩
      · rw [show (postingWaits index w s).path.mode = .mapped from hmapped]; nofun
      · exact fun h => absurd ((mayTakePlace_iff s .fetch).mpr h) (by rw [hplace]; nofun)
    rw [upstream_waits hnone hwait]
    exact noteWait_of_waits (s := postingWaits index w s) rfl hwaits

include hnone in
/-- A posting to a held slot waits (R176). -/
theorem upstream_postingHeld (hheld : 4 * index.toNat / 32 * 32 ∈ s.path.held) :
    upstream (memoryWrite index w) s = postingWaits index w s := by
  have hslot : onHeldSlot s (memoryWrite index w) = true :=
    (onHeldSlot_write (d := w.data) (e := w.lanes) rfl).mpr hheld
  exact upstream_postingWaits hnone (mustWait_of_heldSlot hslot)
    (waitsForPlace_of_heldSlot (s := postingWaits index w s) hslot)

include hrun hnone hmapped hdrain hwf hplain in
/-- A posting while RESETTING, or to no slot, is a word of memory (R173, R178). -/
theorem upstream_postingPlain (hno : s.cmd.resetting = true ∨ slotAt s (4 * index.toNat) = none)
    (hfree : 4 * index.toNat / 32 * 32 ∉ s.path.held) :
    (depth s < 12 ∨ s.path.upBurst = .carried → upstream (memoryWrite index w) s = { s with
      mem := writeWord s.mem (4 * index.toNat) w.data w.lanes
      path := { s.path with upBurst := if w.more then .carried else .none } }) ∧
    (¬ (depth s < 12 ∨ s.path.upBurst = .carried) →
      upstream (memoryWrite index w) s = postingWaits index w s) := by
  have hnot : postingOf s (4 * index.toNat) w.data w.lanes = none := by
    rw [postingOf_of_wellFormed hwf]
    rcases hno with hreset | hslot
    · rw [hreset]; rfl
    · rw [hslot, ite_self]
  have hn : natureOf s (memoryWrite index w) = .forwarded :=
    natureOf_of_plain (d := w.data) (e := w.lanes) rfl hplain hnot
  have hheld : onHeldSlot s (memoryWrite index w) = false := by
    rw [Bool.eq_false_iff, Ne, onHeldSlot_write (d := w.data) (e := w.lanes) rfl]
    exact hfree
  refine ⟨fun hfirst => ?_, fun hlast => ?_⟩
  · have hgo : mustWait s (memoryWrite index w) = false :=
      mustWait_eq_false (pathHolds_of_mapped hmapped hdrain) hheld (by rw [hn]; rfl)
        (yieldsToJobs_of_goesFirst hfirst)
    rw [upstream_served hnone hgo]
    exact serveWord_forwarded hrun rfl hn (watchWrite_posting hwf)
  · have hyield : yieldsToJobs s (natureOf s (memoryWrite index w)) = true :=
      yieldsToJobs_of_not_goesFirst (by rw [hn]; rfl) hlast
    have hnature : ∀ k slot, natureOf (postingWaits index w s) (memoryWrite index w) ≠ .posting k slot := by
      intro k slot
      rw [show natureOf (postingWaits index w s) (memoryWrite index w) = .forwarded from hn]
      nofun
    exact upstream_postingWaits hnone (mustWait_of_yields hyield) (waitsForPlace_of_not_posting hnature)

end PostingRow

/-! ## BURST_RESUME (R176, R182) -/

theorem serveWaiting_cons_waits {s : State} {u : UpWord} {us : List UpWord} (h : mustWait s u = true) :
    serveWaiting (u :: us) s = setWaiting (u :: us) s := by
  rw [serveWaiting, if_pos h]

theorem serveWaiting_cons_more {s : State} {u : UpWord} {us : List UpWord} (h : mustWait s u = false)
    (hmore : u.more = true) :
    serveWaiting (u :: us) s = serveWaiting us (serveWord u { s with path := { s.path with upWait := us } }) := by
  rw [serveWaiting, if_neg (by rw [h]; nofun)]
  exact if_pos hmore

theorem serveWaiting_cons_last {s : State} {u : UpWord} {us : List UpWord} (h : mustWait s u = false)
    (hmore : u.more = false) :
    serveWaiting (u :: us) s = noteWait (serveWord u { s with path := { s.path with upWait := us } }) := by
  rw [serveWaiting, if_neg (by rw [h]; nofun)]
  exact if_neg (by rw [hmore]; nofun)

theorem exec_burstResume {s : State} {us : List UpWord} (h : s.path.upWait = us) :
    exec .burstResume s = .next (serveWaiting us s) := by
  subst h; rfl

theorem setWaiting_same {s : State} {us : List UpWord} (h : s.path.upWait = us) :
    setWaiting us s = noteWait { s with path := { s.path with upBurst := .none } } := by
  subst h; rfl

theorem mustWait_read_of_shallow {s : State} {u : UpWord} (h : u.access = .read) (hopen : pathHolds s = false)
    (hshallow : depth s < 12) : mustWait s u = false := by
  rw [mustWait_read h hopen, yieldsToJobs_of_shallow hshallow]

/-- A run of reads that waited is served to its last word, on a shallow queue (R176, R182). -/
theorem serveWaiting_reads (us : List UpWord) (v : UpWord) {s : State} (hrun : NoRunDue s)
    (hopen : pathHolds s = false) (hshallow : depth s < 12) (hread : ∀ u ∈ us, PlainRead u)
    (hmore : ∀ u ∈ us, u.more = true) (hlast : PlainRead v) (hend : v.more = false) :
    serveWaiting (us ++ [v]) s = { s with path := { s.path with
      upWait := [], upBurst := .none, answered := answersTo s (us ++ [v]) ++ s.path.answered } } := by
  induction us generalizing s with
  | nil =>
    have hserve := serveWord_read (s := { s with path := { s.path with upWait := [] } }) hrun hlast
    rw [List.nil_append, serveWaiting_cons_last (mustWait_read_of_shallow hlast.1 hopen hshallow) hend, hserve, hend, noteWait_noneWaits _ rfl]
    rfl
  | cons u us ih =>
    obtain ⟨hu, hus⟩ := List.forall_mem_cons.mp hread
    obtain ⟨hm, hms⟩ := List.forall_mem_cons.mp hmore
    have hserve := serveWord_read (s := { s with path := { s.path with upWait := us ++ [v] } }) hrun hu
    rw [List.cons_append, serveWaiting_cons_more (mustWait_read_of_shallow hu.1 hopen hshallow) hm, hserve]
    refine (ih (s := { s with path := { s.path with
      upWait := us ++ [v], upBurst := s.path.upBurst.after (natureOf s u).carries u.more
      answered := upstreamRead s u.addr :: s.path.answered } }) hrun hopen hshallow hus hms).trans ?_
    exact congrArg (fun l => ({ s with path := { s.path with upWait := [], upBurst := .none, answered := l } } : State))
      (answersTo_cons s u (us ++ [v]) s.path.answered)

end Sys2Proof.Machine
end

-- ==== Proofs: read bursts, and rows on a waiting bus ====
section
/-! SUPPORT. The settlement of `PostingAndResume` (O57), its read bursts and its rows. -/

namespace Sys2Proof.Machine

/-! ## Read bursts (R181, R182, R185) -/

/-- The `k`-th word of a read burst. -/
def ReadAccess.word (r : ReadAccess) (k : Nat) : UpWord :=
  ⟨r.start + BitVec.ofNat 22 k, .read, decide (k < r.after.val) || r.more⟩

/-- The first `n` words of a read burst. -/
def ReadAccess.front (r : ReadAccess) (n : Nat) : List UpWord := (List.range n).map r.word

/-- No word of a read burst is the cause cell. -/
def ReadAccess.SparesCause (r : ReadAccess) : Prop :=
  ∀ k, k ≤ r.after.val → 4 * (r.start + BitVec.ofNat 22 k).toNat ≠ 0xFFF128

theorem step_of_reads {s : State} {r : ReadAccess} {rs : List ReadAccess} (hpending : s.pending = [])
    (hreads : s.reads = r :: rs) : step s = .next (upstreamBurst r.words { s with reads := rs }) := by
  have hidle : step s = .next (idleStep s) := by unfold step; rw [hpending]
  have hburst : idleStep s = upstreamBurst r.words { s with reads := rs } := by unfold idleStep; rw [hreads]
  rw [hidle, hburst]

theorem words_eq_front (r : ReadAccess) : r.words = r.front (r.after.val + 1) := rfl

theorem front_succ (r : ReadAccess) (n : Nat) : r.front (n + 1) = r.front n ++ [r.word n] := by
  simp [ReadAccess.front, List.range_succ]

theorem front_plain {r : ReadAccess} (h : r.SparesCause) {n : Nat} (hn : n ≤ r.after.val + 1) :
    ∀ u ∈ r.front n, PlainRead u := by
  intro u hu
  obtain ⟨k, hk, rfl⟩ := List.mem_map.mp hu
  rw [List.mem_range] at hk
  exact ⟨rfl, h k (by omega)⟩

theorem front_more {r : ReadAccess} {n : Nat} (hn : n ≤ r.after.val) : ∀ u ∈ r.front n, u.more = true := by
  intro u hu
  obtain ⟨k, hk, rfl⟩ := List.mem_map.mp hu
  rw [List.mem_range] at hk
  simp only [ReadAccess.word, Bool.or_eq_true, decide_eq_true_eq]
  exact .inl (by omega)

theorem word_last_more (r : ReadAccess) : (r.word r.after.val).more = r.more := by simp [ReadAccess.word]

theorem word_plain {r : ReadAccess} (h : r.SparesCause) {n : Nat} (hn : n ≤ r.after.val) : PlainRead (r.word n) :=
  ⟨rfl, h n hn⟩

theorem answersTo_front (s : State) (r : ReadAccess) (n : Nat) : answersTo s (r.front n) =
    ((List.range n).map fun k => upstreamRead s (4 * (r.start + BitVec.ofNat 22 k).toNat)).reverse := by
  unfold answersTo ReadAccess.front
  rw [List.map_map]
  rfl

theorem carries_word (s : State) (r : ReadAccess) (k : Nat) : (natureOf s (r.word k)).carries = true ↔
    overlaid s (4 * (r.start + BitVec.ofNat 22 k).toNat) = none := carries_read (u := r.word k) rfl

theorem drop_words {r : ReadAccess} {n : Nat} (hn : n ≤ r.after.val) :
    r.words.drop n = r.word n :: r.words.drop (n + 1) := by
  have hlt : n < r.words.length := by rw [words_length]; omega
  rw [List.drop_eq_getElem_cons hlt]
  congr 1
  simp [words_eq_front, ReadAccess.front]

theorem words_eq_append (r : ReadAccess) (n : Nat) (hn : n ≤ r.after.val + 1) :
    r.words = r.front n ++ r.words.drop n := by
  have htake : r.words.take n = r.front n := by
    rw [words_eq_front, ReadAccess.front, ← List.map_take, List.take_range, Nat.min_eq_left hn]
    rfl
  rw [← htake, List.take_append_drop]

theorem upstreamBurst_append (us vs : List UpWord) (s : State) :
    upstreamBurst (us ++ vs) s = upstreamBurst vs (upstreamBurst us s) := List.foldl_append ..

section Burst

variable {s : State} {r : ReadAccess} (hrun : NoRunDue s) (hspares : r.SparesCause) (hnone : s.path.upWait = [])
  (hopen : pathHolds s = false)

include hrun hspares hnone hopen in
/-- A read burst on whose words the jobs have no claim is answered to its last word (R182, R185). -/
theorem upstreamBurst_answered
    (hfirst : depth s < 12 ∨ s.path.upBurst = .carried ∨ ∀ k, k ≤ r.after.val → (natureOf s (r.word k)).carries = false) :
    upstreamBurst r.words s = { s with path := { s.path with
      upBurst := if r.more = false then .none
        else if s.path.upBurst = .carried ∨
          ∃ k, k ≤ r.after.val ∧ overlaid s (4 * (r.start + BitVec.ofNat 22 k).toNat) = none
        then .carried else .begun
      answered := answersTo s r.words ++ s.path.answered } } := by
  have hmore := front_more (r := r) (Nat.le_refl _)
  have hlast := word_plain hspares (Nat.le_refl r.after.val)
  have hserved : upstreamBurst (r.front r.after.val) s = readsServed (r.front r.after.val) s := by
    refine upstreamBurst_reads _ hrun hnone hopen (front_plain hspares (by omega)) hmore ?_
    refine hfirst.imp_right fun h => h.imp_right fun hstate u hu => ?_
    obtain ⟨k, hk, rfl⟩ := List.mem_map.mp hu
    rw [List.mem_range] at hk
    exact hstate k (by omega)
  have hbus := burstAfter_carried_iff s (r.front r.after.val) hmore s.path.upBurst
  have hyield : yieldsToJobs (readsServed (r.front r.after.val) s) (natureOf s (r.word r.after.val)) = false := by
    rcases hfirst with hshallow | hcarried | hstate
    · exact yieldsToJobs_of_goesFirst (s := readsServed (r.front r.after.val) s) (.inl hshallow)
    · exact yieldsToJobs_of_goesFirst (s := readsServed (r.front r.after.val) s) (.inr (hbus.mpr (.inl hcarried)))
    · rw [Bool.eq_false_iff, Ne, yieldsToJobs_iff, hstate _ (Nat.le_refl _)]
      exact fun h => nomatch h.1
  have hend : upstream (r.word r.after.val) (readsServed (r.front r.after.val) s)
      = readsServed [r.word r.after.val] (readsServed (r.front r.after.val) s) := by
    have hgo : mustWait (readsServed (r.front r.after.val) s) (r.word r.after.val) = false :=
      (mustWait_read (s := readsServed (r.front r.after.val) s) (u := r.word r.after.val) rfl hopen).trans hyield
    rw [upstream_served (s := readsServed (r.front r.after.val) s) hnone hgo]
    exact serveWord_read_eq (s := readsServed (r.front r.after.val) s) hrun hlast
  have hexists : (∃ u ∈ r.front (r.after.val + 1), (natureOf s u).carries = true) ↔
      ∃ k, k ≤ r.after.val ∧ overlaid s (4 * (r.start + BitVec.ofNat 22 k).toNat) = none := by
    simp only [ReadAccess.front, List.mem_map, List.mem_range, Nat.lt_succ_iff, exists_exists_and_eq_and, carries_word]
  have hcond : ((natureOf s (r.word r.after.val)).carries = true ∨
      burstAfter s (r.front r.after.val) s.path.upBurst = .carried) ↔
      (s.path.upBurst = .carried ∨
        ∃ k, k ≤ r.after.val ∧ overlaid s (4 * (r.start + BitVec.ofNat 22 k).toNat) = none) := by
    simp only [hbus, ← hexists, front_succ, List.mem_append, List.mem_singleton, or_and_right, exists_or, exists_eq_left]
    exact or_left_comm.trans (or_congr_right or_comm)
  have hburst := after_eq (natureOf s (r.word r.after.val)).carries (r.word r.after.val).more
    (burstAfter s (r.front r.after.val) s.path.upBurst)
  rw [word_last_more] at hburst
  simp only [hcond] at hburst
  have hanswers : answersTo s [r.word r.after.val] ++ (answersTo s (r.front r.after.val) ++ s.path.answered)
      = answersTo s r.words ++ s.path.answered := by
    rw [words_eq_front, front_succ]
    simp [answersTo]
  rw [words_eq_front, front_succ, upstreamBurst_append, hserved]
  refine Eq.trans (b := upstream (r.word r.after.val) (readsServed (r.front r.after.val) s)) rfl ?_
  rw [hend, ← front_succ, ← words_eq_front, ← hburst, ← hanswers]
  refine congrArg (fun b => ({ s with path := { s.path with
    upBurst := b
    answered := answersTo s [r.word r.after.val] ++ (answersTo s (r.front r.after.val) ++ s.path.answered) } } : State)) ?_
  refine Eq.trans (b := (burstAfter s (r.front r.after.val) s.path.upBurst).after
    (natureOf s (r.word r.after.val)).carries (r.word r.after.val).more) rfl ?_
  rw [word_last_more]

include hrun hspares hnone hopen in
/-- From a depth of 12 on, a read burst that has not the bus is answered up to its first word of memory, where it waits
(R185). -/
theorem upstreamBurst_stops {n : Nat} (hdeep : 12 ≤ depth s) (hbus : s.path.upBurst ≠ .carried) (hn : n ≤ r.after.val)
    (hstate : ∀ k, k < n → ∃ w, overlaid s (4 * (r.start + BitVec.ofNat 22 k).toNat) = some w)
    (hmemory : overlaid s (4 * (r.start + BitVec.ofNat 22 n).toNat) = none) :
    upstreamBurst r.words s = { s with path := { s.path with
      upBurst := .none, upWait := r.words.drop n, answered := answersTo s (r.front n) ++ s.path.answered } } := by
  have hmore := front_more hn
  have hnotcarried : ∀ u ∈ r.front n, (natureOf s u).carries = false := by
    intro u hu
    obtain ⟨k, hk, rfl⟩ := List.mem_map.mp hu
    obtain ⟨w, hw⟩ := hstate k (List.mem_range.mp hk)
    rw [Bool.eq_false_iff, Ne, carries_word, hw]
    nofun
  have hserved : upstreamBurst (r.front n) s = readsServed (r.front n) s :=
    upstreamBurst_reads _ hrun hnone hopen (front_plain hspares (by omega)) hmore (.inr (.inr hnotcarried))
  have hburst : burstAfter s (r.front n) s.path.upBurst ≠ .carried := by
    rw [Ne, burstAfter_carried_iff s _ hmore, not_or]
    refine ⟨hbus, fun ⟨u, hu, hc⟩ => ?_⟩
    rw [hnotcarried u hu] at hc
    cases hc
  have hwait : mustWait (readsServed (r.front n) s) (r.word n) = true := by
    refine mustWait_of_yields (s := readsServed (r.front n) s) ?_
    rw [yieldsToJobs_iff]
    exact ⟨(carries_word s r n).mpr hmemory, hdeep, hburst⟩
  have hstop : upstream (r.word n) (readsServed (r.front n) s) = { s with path := { s.path with
      upBurst := .none, upWait := [r.word n], answered := answersTo s (r.front n) ++ s.path.answered } } := by
    rw [upstream_waits (s := readsServed (r.front n) s) hnone hwait]
    exact noteWait_of_places (u := r.word n) (us := []) rfl (waitsForPlace_of_read rfl)
  rw [words_eq_append r n (by omega), upstreamBurst_append, hserved, ← words_eq_append r n (by omega), drop_words hn]
  refine Eq.trans (b := upstreamBurst (r.words.drop (n + 1)) (upstream (r.word n) (readsServed (r.front n) s))) rfl ?_
  rw [hstop, upstreamBurst_of_waiting]
  · rfl
  · exact List.cons_ne_nil _ _

include hnone in
/-- A read burst to a path that holds every access waits as a whole (R169, R172). -/
theorem upstreamBurst_held (hheld : pathHolds s = true) :
    upstreamBurst r.words s = { s with path := { s.path with upWait := r.words, upBurst := .none } } := by
  have hfirst : r.words = r.word 0 :: r.words.drop 1 := drop_words (n := 0) (Nat.zero_le _)
  have hstop : upstream (r.word 0) s = { s with path := { s.path with upWait := [r.word 0], upBurst := .none } } := by
    rw [upstream_waits hnone (mustWait_of_pathHolds hheld)]
    exact noteWait_of_places (u := r.word 0) (us := []) rfl (waitsForPlace_of_read rfl)
  rw [hfirst]
  refine Eq.trans (b := upstreamBurst (r.words.drop 1) (upstream (r.word 0) s)) rfl ?_
  rw [hstop, upstreamBurst_of_waiting]
  · rfl
  · exact List.cons_ne_nil _ _

end Burst

end Sys2Proof.Machine
end

-- ==== Proofs: the settlement of the waiting bus ====
section
/-! SUPPORT. The settlement of `PostingAndResume` (O57): its clauses, from the rules of the bus. -/

namespace Sys2Proof.Machine

/-! ## The rows whose word comes on the upstream bus (R176, R182) -/

/-- A row brings its word on the upstream bus, whatever the word is. -/
theorem exec_of_commandRow (v : BitVec 8) (w : CommandWrite) (s : State) :
    exec (commandRow v w) s = .next (upstream (commandWrite v w) s) :=
  exec_of_busWord (busWord_commandRow v w) s

theorem mustWait_ofWait (s : State) (u : UpWord) (us : List UpWord) :
    mustWait { s with path := { s.path with upWait := us } } u = mustWait s u := rfl

/-- A row that brings a word does what the word does, at once or when its wait ends (R176, R182). -/
theorem row_of_word {c : Instr} {u : UpWord} (hc : ∀ t, exec c t = .next (upstream u t)) (s : State) :
    (s.path.upWait = [u] → u.more = false → mustWait s u = false →
      exec .burstResume s = exec c { s with path := { s.path with upWait := [] } }) ∧
    (s.path.upWait = [] → exec c s = .next (if mustWait s u = true
      then noteWait { s with path := { s.path with upWait := [u], upBurst := .none } } else serveWord u s)) ∧
    (s.path.upWait ≠ [] → exec c s = .next { s with path := { s.path with upWait := s.path.upWait ++ [u] } }) := by
  refine ⟨fun hwaits hmore hgo => ?_, fun hnone => ?_, fun hsome => ?_⟩
  · have hserved : (serveWord u { s with path := { s.path with upWait := [] } }).path.upWait = [] :=
      serveWord_upWait { s with path := { s.path with upWait := [] } } u
    rw [exec_burstResume hwaits, serveWaiting_cons_last hgo hmore, noteWait_noneWaits _ hserved, hc,
      upstream_served (s := { s with path := { s.path with upWait := [] } }) rfl ((mustWait_ofWait s u []).trans hgo)]
  · rw [hc, upstream_of_none u hnone]; rfl
  · rw [hc, upstream_of_waiting u hsome]

/-- BURST_RESUME takes the words that wait in turn, up to the first that must wait still (R176, R182). -/
theorem burstResume_of_words {s : State} {u : UpWord} {us : List UpWord} (h : s.path.upWait = u :: us) :
    (mustWait s u = true → exec .burstResume s = .next (noteWait { s with path := { s.path with upBurst := .none } })) ∧
    (mustWait s u = false → u.more = true → exec .burstResume s =
      exec .burstResume (serveWord u { s with path := { s.path with upWait := us } })) ∧
    (mustWait s u = false → u.more = false → exec .burstResume s =
      .next (noteWait (serveWord u { s with path := { s.path with upWait := us } }))) := by
  refine ⟨fun hwait => ?_, fun hgo hmore => ?_, fun hgo hmore => ?_⟩
  · rw [exec_burstResume h, serveWaiting_cons_waits hwait, setWaiting_same h]
  · rw [exec_burstResume h, serveWaiting_cons_more hgo hmore,
      exec_burstResume (serveWord_upWait { s with path := { s.path with upWait := us } } u)]
  · rw [exec_burstResume h, serveWaiting_cons_last hgo hmore]

/-! ## What a word does when it is served -/

theorem watchWrite_below {a : Nat} (h : a < 0xFFF000) (d : Word) (e : BitVec 4) (t : State) :
    watchWrite a d e t = t := if_pos h

theorem watchWrite_argument {s : State} (k : Fin 6) (d : Word) (e : BitVec 4) (hargs : s.cmd.args.length = 6) :
    watchWrite (0xFFF104 + 4 * k.val) d e s = { s with cmd := { s.cmd with
      args := s.cmd.args.set k.val (overlay (s.cmd.args.getD k.val 0) d e) } } := by
  have hk := k.isLt
  have hoffset : 0xFFF104 + 4 * k.val - 0xFFF000 = 0x104 + 4 * k.val := by omega
  have hcell : (0x104 + 4 * k.val - 0x104) / 4 = k.val := by omega
  have hcopy := overlayAt_eq_set (l := s.cmd.args) (k := k.val) (by omega) d e
  unfold watchWrite Config.pageBase
  rw [if_neg (by omega), hoffset]
  unfold watchCell
  rw [if_neg (by omega), if_neg (by omega), if_pos (by omega), hcell]
  unfold writeArgument
  rw [hcopy]

/-- A write that is forwarded acts on the state with its word in memory and its burst on the bus (R166, R182). -/
theorem serveWord_watched {s : State} {u : UpWord} {d : Word} {e : BitVec 4} (hu : u.access = .write d e)
    (hn : natureOf s u = .forwarded) :
    serveWord u s = finish (watchWrite u.addr d e { s with
      mem := writeWord s.mem u.addr d e
      path := { s.path with upBurst := s.path.upBurst.after true u.more } }) := by
  unfold serveWord
  rw [serveAccess_forwarded hu ((natureOf_takeBus s u u).trans hn), takeBus_eq, hn]
  rfl

/-- A change of argument cell `k` (R166). -/
theorem serveWord_argument {s : State} {u : UpWord} {d : Word} {e : BitVec 4} (hrun : NoRunDue s) (k : Fin 6)
    (hargs : s.cmd.args.length = 6) (hu : u.access = .write d e) (hn : natureOf s u = .forwarded)
    (ha : u.addr = 0xFFF104 + 4 * k.val) :
    serveWord u s = { s with
      mem := writeWord s.mem u.addr d e
      path := { s.path with upBurst := s.path.upBurst.after true u.more }
      cmd := { s.cmd with args := s.cmd.args.set k.val (overlay (s.cmd.args.getD k.val 0) d e) } } := by
  rw [serveWord_watched hu hn]
  refine (congrArg (fun a => finish (watchWrite a d e { s with
    mem := writeWord s.mem u.addr d e
    path := { s.path with upBurst := s.path.upBurst.after true u.more } })) ha).trans ?_
  rw [watchWrite_argument (s := { s with
    mem := writeWord s.mem u.addr d e
    path := { s.path with upBurst := s.path.upBurst.after true u.more } }) k d e hargs]
  exact finish_idle _ hrun

theorem not_pathHolds {s : State} (h : ¬ (s.path.mode = .loading ∨ s.path.draining = true)) : pathHolds s = false := by
  rw [Bool.eq_false_iff, Ne, pathHolds_iff]; exact h

/-- One plain word of memory that waited is forwarded (R176, R182). -/
theorem burstResume_plainWord {s : State} {index : BitVec 22} {d : Word} {e : BitVec 4}
    (hwaits : s.path.upWait = [⟨index, .write d e, false⟩]) (hrun : NoRunDue s) (hloading : s.path.mode ≠ .loading)
    (hdrain : s.path.draining = false) (hshallow : depth s < 12) (hlow : 4 * index.toNat < 0xFFF000)
    (hfree : 4 * index.toNat / 32 * 32 ∉ s.path.held) (hplain : protectedBy s (4 * index.toNat) = none)
    (htag : 4 * index.toNat % 32 ≠ 28) :
    exec .burstResume s = .next { s with
      mem := writeWord s.mem (4 * index.toNat) d e
      path := { s.path with upWait := [], upBurst := .none } } := by
  have hn : natureOf s ⟨index, .write d e, false⟩ = .forwarded :=
    natureOf_of_plain (d := d) (e := e) rfl hplain (if_neg fun hp => htag hp.1)
  have hheld : onHeldSlot s ⟨index, .write d e, false⟩ = false := by
    rw [Bool.eq_false_iff, Ne, onHeldSlot_write (d := d) (e := e) rfl]; exact hfree
  have hopen : pathHolds s = false := not_pathHolds (not_or.mpr ⟨hloading, by simp [hdrain]⟩)
  have hgo : mustWait s ⟨index, .write d e, false⟩ = false :=
    mustWait_eq_false hopen hheld (by rw [hn]; rfl) (yieldsToJobs_of_shallow hshallow _)
  have hserve := serveWord_forwarded (s := { s with path := { s.path with upWait := [] } })
    (u := ⟨index, .write d e, false⟩) hrun rfl hn fun t => watchWrite_below hlow d e t
  rw [(burstResume_of_words hwaits).2.2 hgo rfl, hserve, noteWait_noneWaits _ rfl]
  rfl

/-! ## The clauses of the statement -/

/-- A word that stands first and lacks a place alone takes its turn among the producers; no other does (R184). -/
theorem noteWait_clause (s : State) (waits : Prop) (hwaits : waits ↔ ∃ u us, s.path.upWait = u :: us ∧
      waitsForPlace s u = true) :
    (waits → Producer.fetch ∉ s.path.waiters → noteWait s = { s with path := { s.path with
      waiters := s.path.waiters ++ [.fetch] } }) ∧
    (¬ waits ∨ Producer.fetch ∈ s.path.waiters → noteWait s = s) := by
  refine ⟨fun h hnot => ?_, fun h => ?_⟩
  · obtain ⟨u, us, hu, hw⟩ := hwaits.mp h
    rw [noteWait_of_waits hu hw, joinWaiters, if_neg hnot]
  · cases hu : s.path.upWait with
    | nil => exact noteWait_noneWaits s hu
    | cons u us =>
      by_cases hw : waitsForPlace s u = true
      · have hin : Producer.fetch ∈ s.path.waiters := h.resolve_left (not_not_intro (hwaits.mpr ⟨u, us, hu, hw⟩))
        rw [noteWait_of_waits hu hw, joinWaiters, if_pos hin]
      · exact noteWait_of_places hu (Bool.eq_false_iff.mpr hw)

/-- A read burst of overlay words alone is answered at any depth, and takes no bus (R181, R185). -/
theorem upstreamBurst_ofState {s : State} {r : ReadAccess} (hrun : NoRunDue s) (hspares : r.SparesCause)
    (hnone : s.path.upWait = []) (hopen : pathHolds s = false) (hbus : s.path.upBurst ≠ .carried)
    (hstate : ∀ k, k ≤ r.after.val → ∃ w, overlaid s (4 * (r.start + BitVec.ofNat 22 k).toNat) = some w) :
    upstreamBurst r.words s = { s with path := { s.path with
      upBurst := if r.more = false then .none else .begun
      answered := answersTo s r.words ++ s.path.answered } } := by
  have hnotcarried (k : Nat) (hk : k ≤ r.after.val) : (natureOf s (r.word k)).carries = false := by
    obtain ⟨v, hv⟩ := hstate k hk
    rw [Bool.eq_false_iff, Ne, carries_word]
    exact fun h => nomatch h.symm.trans hv
  have hno : ¬ (s.path.upBurst = .carried ∨
      ∃ k, k ≤ r.after.val ∧ overlaid s (4 * (r.start + BitVec.ofNat 22 k).toNat) = none) := by
    rintro (hc | ⟨k, hk, hk'⟩)
    · exact hbus hc
    · obtain ⟨v, hv⟩ := hstate k hk
      exact nomatch hk'.symm.trans hv
  rw [upstreamBurst_answered hrun hspares hnone hopen (.inr (.inr hnotcarried)), if_neg hno]

/-- Settles O57: a posting by what its word waits for, a read burst by induction on its words, BURST_RESUME by the
words that wait, and each row by the word that it brings. -/
theorem postingAndResume : Obligations.PostingAndResume := by
  refine ⟨fun index w s hrun hnone hmapped hdrain hwf => ?_, fun s hnone => ?_, fun s u us hwaits hheld => ?_,
    fun s index d e hwaits hrun hloading hdrain hshallow => ?_, fun r rs s hrun => ?_, fun s => ?_, ?_⟩
  · intro a hplain forwarded waits goesFirst
    have hexec : exec (.posting index w) s = .next (upstream (memoryWrite index w) s) := rfl
    rw [hexec]
    refine ⟨fun k slot hslot hreset hfree => ?_, fun hheld => ?_, fun hno hfree => ?_⟩
    · intro place
      obtain ⟨htaken, hyields, hlacks⟩ :=
        upstream_postingOfSlot hrun hnone hmapped hdrain hwf hplain hslot hreset hfree
      have hplace : mayTakePlace s .fetch = true ↔ place := mayTakePlace_iff s .fetch
      refine ⟨fun hp hfirst => ?_, fun hp hlast => ?_, fun hp => ?_⟩
      · exact congrArg Host.Outcome.next (htaken (hplace.mpr hp) hfirst)
      · exact congrArg Host.Outcome.next (hyields (hplace.mpr hp) hlast)
      · exact congrArg Host.Outcome.next (hlacks (Bool.eq_false_iff.mpr fun h => hp (hplace.mp h)))
    · exact congrArg Host.Outcome.next (upstream_postingHeld hnone hheld)
    · obtain ⟨hserved, hyields⟩ := upstream_postingPlain hrun hnone hmapped hdrain hwf hplain hno hfree
      exact ⟨fun hfirst => congrArg Host.Outcome.next (hserved hfirst),
        fun hlast => congrArg Host.Outcome.next (hyields hlast)⟩
  · rw [exec_burstResume hnone, serveWaiting, ← hnone]
  · have hpath : pathHolds s = true := (pathHolds_iff s).mpr hheld
    rw [(burstResume_of_words hwaits).1 (mustWait_of_pathHolds hpath)]
    exact congrArg Host.Outcome.next (noteWait_of_places (s := { s with path := { s.path with upBurst := .none } })
      hwaits (waitsForPlace_of_held (s := { s with path := { s.path with upBurst := .none } }) hpath))
  · intro a hlow hfree hplain htag
    exact burstResume_plainWord hwaits hrun hloading hdrain hshallow hlow hfree hplain htag
  · intro addr words answers fromState fromMemory held hspares
    have hopen (h : ¬ held) : pathHolds s = false := not_pathHolds h
    have hanswers (n : Nat) : answersTo s (r.front n) ++ s.path.answered = answers n :=
      congrArg (· ++ s.path.answered) (answersTo_front s r n)
    refine ⟨fun hpending hreads => ?_, fun hwaits hmore hheld hshallow => ?_⟩
    · rw [step_of_reads hpending hreads]
      refine ⟨fun hnone hheld hfirst => ?_, fun n hnone hheld hdeep hbus hn hstate hmemory => ?_, fun hnone hheld => ?_,
        fun hsome => ?_⟩
      · rw [← hanswers]
        exact congrArg Host.Outcome.next (upstreamBurst_answered (s := { s with reads := rs }) hrun hspares hnone
          (hopen hheld) (hfirst.imp_right .inl))
      · rcases Nat.lt_or_ge r.after.val n with hall | hn'
        · obtain rfl : n = r.after.val + 1 := by omega
          have hdrop : words.drop (r.after.val + 1) = [] := List.drop_eq_nil_of_le (by simp [words])
          have hcond : (r.after.val + 1 ≤ r.after.val ∨ r.more = false) ↔ r.more = false := or_iff_right (by omega)
          rw [upstreamBurst_ofState (s := { s with reads := rs }) hrun hspares hnone (hopen hheld) hbus
            fun k hk => hstate k (by omega), hdrop, ← hanswers]
          simp only [hcond]
          rw [← hnone]
          rfl
        · have hstops := upstreamBurst_stops (s := { s with reads := rs }) hrun hspares hnone (hopen hheld) hdeep hbus
            hn' hstate (hmemory hn')
          rw [hstops, if_pos (.inl hn'), ← hanswers]
          rfl
      · exact congrArg Host.Outcome.next
          (upstreamBurst_held (s := { s with reads := rs }) hnone ((pathHolds_iff s).mpr hheld))
      · exact congrArg Host.Outcome.next (upstreamBurst_of_waiting r.words (s := { s with reads := rs }) hsome)
    · have hsplit : words = r.front r.after.val ++ [r.word r.after.val] := front_succ r r.after.val
      rw [exec_burstResume (hwaits.trans hsplit), serveWaiting_reads (r.front r.after.val) (r.word r.after.val) hrun
        (hopen hheld) hshallow (front_plain hspares (by omega)) (front_more (Nat.le_refl _))
        (word_plain hspares (Nat.le_refl _)) ((word_last_more r).trans hmore), ← front_succ, hanswers]
  · intro waits
    have hwaits : waits ↔ ∃ u us, s.path.upWait = u :: us ∧ waitsForPlace s u = true := by
      simp only [waitsForPlace_iff]
      constructor
      · rintro ⟨u, us, d, e, k, slot, hu, hrest⟩
        exact ⟨u, us, hu, d, e, k, slot, hrest⟩
      · rintro ⟨u, us, hu, d, e, k, slot, hrest⟩
        exact ⟨u, us, d, e, k, slot, hu, hrest⟩
    obtain ⟨hjoins, hstays⟩ := noteWait_clause s waits hwaits
    exact ⟨hjoins, hstays, fun _ => rfl⟩
  · intro carriedBy
    refine ⟨fun c u s hc => row_of_word (fun t => ?_) s, fun u us s hwaits => burstResume_of_words hwaits,
      fun u s hrun => ?_⟩
    · rcases hc with ⟨v, w, rfl, rfl⟩ | ⟨w, rfl, rfl⟩ | ⟨k, w, rfl, rfl⟩ | ⟨w, rfl, rfl⟩ | ⟨w, rfl, rfl⟩ | ⟨w, rfl, rfl⟩ |
        ⟨w, rfl, rfl⟩ | ⟨n, w, rfl, rfl⟩ | ⟨i, w, rfl, rfl⟩ | ⟨i, w, rfl, rfl⟩
      case inl => exact exec_of_commandRow v w t
      all_goals exact exec_of_busWord rfl t
    · intro a carries on
      have hcarries : carries = (natureOf s u).carries := by
        change (match natureOf s u with | _ => _) = _
        cases natureOf s u <;> rfl
      have hon : on = { s with path := { s.path with
          upBurst := s.path.upBurst.after (natureOf s u).carries u.more } } := by
        rw [after_eq, ← hcarries]
      refine ⟨fun hu hcause => ?_, fun d e hu => ⟨fun k slot hn => ?_, fun hn hlow => ?_, fun k hargs hn ha => ?_⟩⟩
      · rw [hon]
        exact serveWord_read hrun ⟨hu, hcause⟩
      · rw [hon, serveWord_posting hrun hu hn, hn, show Nature.carries (.posting k slot) = true from rfl, after_carried]
        rfl
      · rw [hon, serveWord_forwarded hrun hu hn (fun t => watchWrite_below hlow d e t), hn,
          show Nature.carries .forwarded = true from rfl, after_carried]
        rfl
      · rw [hon, serveWord_argument hrun k hargs hu hn ha, hn]
        rfl

end Sys2Proof.Machine
end

-- ==== Proofs: the arbiter and the head job ====
section
/-! SUPPORT. The settlement of `AcceptAndEventJobs` (O58): ACCEPT and EVENT completions, the bursts of a run of words,
the arbiter, and the step on an empty command queue. -/

namespace Sys2Proof.Machine

/-! ## Completions (R74, R176, R183) -/

theorem AcceptCode.code_lt (c : AcceptCode) : c.code < 256 := by cases c <;> decide

theorem acceptWord_eq (c : AcceptCode) (seq : Byte) {entry : Nat} (h : entry < 2048) :
    acceptWord c seq entry = word (c.code + 256 * seq.toNat + 65536 * entry) := by
  unfold acceptWord
  rw [put_of_lt (width := 8) c.code_lt, put_of_lt (width := 8) seq.isLt, put_of_lt (width := 11) h]
  simp

theorem headKind_of_bus {s : State} {j : Job} {js : List Job} (hbus : jobsHaveBus s = true)
    (hjobs : s.path.jobs = j :: js) : headKind s = some j.kind :=
  (headKind_eq_some s j.kind).mpr ⟨hbus, j, js, hjobs, rfl⟩

theorem finishHead_cons {s : State} {j : Job} {js : List Job} (hjobs : s.path.jobs = j :: js) :
    finishHead s = { s with mem := (runBursts s.mem j.got j.bursts).1, path := { s.path with jobs := js } } := by
  rw [finishHead, hjobs]

theorem completeAccept_of_head {s : State} {slot : Nat} (h : headKind s = some (.accept slot)) :
    completeAccept s = noteWait { finishHead s with path := { (finishHead s).path with
      held := (finishHead s).path.held.filter (· ≠ slot) } } := by
  rw [completeAccept, h]

theorem completeEvent_of_head {s : State} (h : headKind s = some .event) : completeEvent s = finishHead s := by
  rw [completeEvent, h]

theorem headKind_of_noBus {s : State} (h : jobsHaveBus s = false) : headKind s = none := by
  rw [headKind, h]; rfl

theorem fetchedSlot_of_noBus {s : State} (h : jobsHaveBus s = false) (k : ZoneKind) : fetchedSlot s k = none := by
  rw [fetchedSlot, headKind_of_noBus h]

/-- A completion finds no job at the head where the bus is not the jobs' (R183, R185, log 5). -/
theorem exec_completion_of_noBus {s : State} (hrun : NoRunDue s) (h : jobsHaveBus s = false) (c : Instr)
    (hc : c ∈ [Instr.intakeRecord, .resultRecord, .markRecord, .acceptJobComplete, .eventJobComplete,
      .reportJobComplete, .layoutReadComplete]) : exec c s = .next s := by
  have hhead := headKind_of_noBus h
  have hidle {c : Instr} (f : State → State) (he : exec c s = .next (finish (f s))) (hf : f s = s) :
      exec c s = .next s := by
    rw [he, hf, finish_idle s hrun]
  simp only [List.mem_cons, List.not_mem_nil, or_false] at hc
  rcases hc with rfl | rfl | rfl | rfl | rfl | rfl | rfl
  · exact hidle completeIntake rfl (by rw [completeIntake, fetchedSlot_of_noBus h])
  · exact hidle completeResult rfl (by rw [completeResult, fetchedSlot_of_noBus h])
  · exact hidle completeMark rfl (by rw [completeMark, fetchedSlot_of_noBus h])
  · exact hidle completeAccept rfl (by rw [completeAccept, hhead])
  · exact hidle completeEvent rfl (by rw [completeEvent, hhead])
  · exact hidle completeReport rfl (by rw [completeReport, hhead])
  · exact hidle completeLayout rfl (by rw [completeLayout, hhead])

/-! ## The bursts of a run of words (R183) -/

theorem writeWords_append (xs ys : List Word) (m : Memory) (a : Nat) :
    writeWords m a (xs ++ ys) = writeWords (writeWords m a xs) (a + 4 * xs.length) ys := by
  induction xs generalizing m a with
  | nil => rfl
  | cons x xs ih =>
    rw [List.cons_append, writeWords, ih, writeWords, List.length_cons]
    congr 1
    omega

/-- Bursts of at most eight words write their words in address order. -/
theorem runBursts_writeBursts (k : Nat) (m : Memory) (got : List Word) (a : Nat) (ws : List Word)
    (h : ws.length ≤ k) : (runBursts m got (writeBursts k a ws)).1 = writeWords m a ws := by
  induction k generalizing m a ws with
  | zero => rw [List.length_eq_zero_iff.mp (Nat.le_zero.mp h)]; rfl
  | succ k ih =>
    cases ws with
    | nil => rfl
    | cons w ws =>
      have hrest : ((w :: ws).drop 8).length ≤ k := by rw [List.length_drop]; omega
      have hsplit : writeWords m a (w :: ws) =
          writeWords (writeWords m a ((w :: ws).take 8)) (a + 4 * ((w :: ws).take 8).length) ((w :: ws).drop 8) := by
        rw [← writeWords_append, List.take_append_drop]
      have hburst : (runBursts m got (writeBursts (k + 1) a (w :: ws))).1 =
          (runBursts (writeWords m a ((w :: ws).take 8)) got (writeBursts k (a + 32) ((w :: ws).drop 8))).1 := rfl
      rw [hburst, ih _ _ _ hrest, hsplit]
      by_cases hlong : 8 ≤ (w :: ws).length
      · rw [List.length_take, Nat.min_eq_left hlong]
      · rw [List.drop_eq_nil_of_le (by omega)]; rfl

/-! ## The arbiter (R176, R182, R185) -/

theorem carries_iff (n : Nature) : n.carries = true ↔ n ≠ .overlay ∧ ∀ i, n ≠ .dropped i := by
  cases n <;> simp [Nature.carries]

/-- A word of the access that stands first: all the words before it have more of their burst after them (log 7). -/
theorem any_firstAccess_iff (p : UpWord → Bool) (us : List UpWord) : (firstAccess us).any p = true ↔
    ∃ before v after, us = before ++ v :: after ∧ (∀ x ∈ before, x.more = true) ∧ p v = true := by
  induction us with
  | nil => simp [firstAccess]
  | cons u us ih =>
    have hcons : (∃ before v after, u :: us = before ++ v :: after ∧ (∀ x ∈ before, x.more = true) ∧ p v = true) ↔
        p u = true ∨ (u.more = true ∧
          ∃ before v after, us = before ++ v :: after ∧ (∀ x ∈ before, x.more = true) ∧ p v = true) := by
      constructor
      · rintro ⟨before, v, after, heq, hmore, hv⟩
        cases before with
        | nil => cases heq; exact .inl hv
        | cons x before =>
          cases heq
          obtain ⟨hx, hrest⟩ := List.forall_mem_cons.mp hmore
          exact .inr ⟨hx, before, v, after, rfl, hrest, hv⟩
      · rintro (hu | ⟨hm, before, v, after, rfl, hmore, hv⟩)
        · exact ⟨[], u, us, rfl, by simp, hu⟩
        · exact ⟨u :: before, v, after, rfl, List.forall_mem_cons.mpr ⟨hm, hmore⟩, hv⟩
    rw [hcons, ← ih, firstAccess]
    cases hm : u.more <;> simp

theorem upstreamClaims_iff (s : State) : upstreamClaims s = true ↔
    ∃ u us, s.path.upWait = u :: us ∧ mustWait s u = false ∧
      ∃ before v after, u :: us = before ++ v :: after ∧ (∀ x ∈ before, x.more = true) ∧
        (natureOf s v).carries = true := by
  unfold upstreamClaims
  cases hw : s.path.upWait with
  | nil => simp
  | cons u us =>
    dsimp only
    rw [Bool.and_eq_true, Bool.not_eq_true', any_firstAccess_iff]
    constructor
    · exact fun h => ⟨u, us, rfl, h⟩
    · rintro ⟨u', us', heq, h⟩
      cases heq
      exact h

theorem jobsHaveBus_iff (s : State) : jobsHaveBus s = true ↔
    s.path.upBurst = .none ∧ (12 ≤ depth s ∨ ¬ upstreamClaims s = true) := by
  unfold jobsHaveBus
  rw [Bool.and_eq_true, Bool.or_eq_true, beq_iff_eq, decide_eq_true_eq, Bool.not_eq_true', Bool.not_eq_true]
  rfl

theorem mustWait_iff (s : State) (u : UpWord) : mustWait s u = true ↔
    s.path.mode = .loading ∨ s.path.draining = true ∨
    (u.access ≠ .read ∧ 4 * u.index.toNat / 32 * 32 ∈ s.path.held) ∨
    (∃ k slot, natureOf s u = .posting k slot ∧
      ¬ (depth s < 16 ∧ (s.path.waiters = [] ∨ s.path.waiters.head? = some .fetch))) ∨
    ((natureOf s u).carries = true ∧ 12 ≤ depth s ∧ s.path.upBurst ≠ .carried) := by
  have hheld : onHeldSlot s u = true ↔ u.access ≠ .read ∧ 4 * u.index.toNat / 32 * 32 ∈ s.path.held := by
    cases hu : u.access with
    | read => simp [onHeldSlot_read hu]
    | write d e => rw [onHeldSlot_write hu]; simp [UpWord.addr]
  have hplace : lacksPlace s (natureOf s u) = true ↔ ∃ k slot, natureOf s u = .posting k slot ∧
      ¬ (depth s < 16 ∧ (s.path.waiters = [] ∨ s.path.waiters.head? = some .fetch)) := by
    rw [← mayTakePlace_iff]
    cases natureOf s u <;> simp [lacksPlace]
  unfold mustWait
  rw [Bool.or_eq_true, Bool.or_eq_true, Bool.or_eq_true, pathHolds_iff, hheld, hplace, yieldsToJobs_iff]
  simp only [or_assoc]

/-! ## The step on an empty command queue (log 4) -/

theorem step_of_idle {s : State} (hpending : s.pending = []) (hreads : s.reads = []) : step s = .next (idleBurst s) := by
  have hidle : step s = .next (idleStep s) := by unfold step; rw [hpending]
  have hburst : idleStep s = idleBurst s := by unfold idleStep; rw [hreads]
  rw [hidle, hburst]

theorem idleBurst_of_bursts {s : State} {k : JobKind} {b b' : Burst} {bs : List Burst} {got : List Word}
    {js : List Job} (hjobs : s.path.jobs = ⟨k, b :: b' :: bs, got⟩ :: js) :
    idleBurst s = if jobsHaveBus s then { s with
      mem := (runBurst s.mem got b).1
      path := { s.path with jobs := ⟨k, b' :: bs, (runBurst s.mem got b).2⟩ :: js } } else s := by
  rw [idleBurst, hjobs]

/-- The last burst of the head job is its completion's to run (log 4). -/
theorem idleBurst_of_last {s : State} (h : s.path.jobs = [] ∨ ∃ j js, s.path.jobs = j :: js ∧ j.bursts.length ≤ 1) :
    idleBurst s = s := by
  rcases h with hnone | ⟨⟨k, bs, got⟩, js, hjobs, hlast⟩
  · rw [idleBurst, hnone]
  · match bs, hlast with
    | [], _ => rw [idleBurst, hjobs]
    | [b], _ => rw [idleBurst, hjobs]

/-- Settles O58: each completion by the job that it finds, the arbiter by its two claims. -/
theorem acceptAndEventJobs : Obligations.AcceptAndEventJobs := by
  refine ⟨fun slot c seq entry js s hrun hjobs hburst hnone hentry => ?_, fun bs got js s hrun hjobs hbus => ?_,
    fun m got a ws => runBursts_writeBursts ws.length m got a ws (Nat.le_refl _), ?_, fun s hpending hreads => ?_⟩
  · have hbus : jobsHaveBus s = true := by rw [jobsHaveBus_noneWaits s hnone, hburst]; rfl
    have hdone : completeAccept s = { s with
        mem := writeWord s.mem slot (word (c.code + 256 * seq.toNat + 65536 * entry)) 15
        path := { s.path with jobs := js, held := s.path.held.filter fun b => b != slot } } := by
      have hfilter : s.path.held.filter (fun b => decide (b ≠ slot)) = s.path.held.filter fun b => b != slot :=
        List.filter_congr fun b _ => by
          rw [Bool.eq_iff_iff, decide_eq_true_eq, bne_iff_ne]
      rw [completeAccept_of_head (headKind_of_bus hbus hjobs), finishHead_cons hjobs]
      rw [← acceptWord_eq c seq hentry, ← hfilter]
      exact noteWait_noneWaits { s with
        mem := writeWord s.mem slot (acceptWord c seq entry) 15
        path := { s.path with jobs := js, held := s.path.held.filter fun b => decide (b ≠ slot) } } hnone
    exact congrArg Host.Outcome.next ((congrArg finish hdone).trans (finish_idle _ hrun))
  · have hdone : completeEvent s = { s with mem := (runBursts s.mem got bs).1, path := { s.path with jobs := js } } := by
      rw [completeEvent_of_head (headKind_of_bus hbus hjobs), finishHead_cons hjobs]
    exact congrArg Host.Outcome.next ((congrArg finish hdone).trans (finish_idle _ hrun))
  · intro carries
    have hcarries (s : State) (u : UpWord) : (natureOf s u).carries = true ↔ carries s u := carries_iff _
    refine ⟨fun s => ?_, fun s u => ?_, headKind_eq_some, fun s c hrun h hc => exec_completion_of_noBus hrun h c hc⟩
    · intro claims
      have hclaims : upstreamClaims s = true ↔ claims := by
        simp only [upstreamClaims_iff, hcarries, claims]
      rw [jobsHaveBus_iff, hclaims]
    · rw [mustWait_iff, hcarries]
  · rw [step_of_idle hpending hreads]
    refine ⟨fun k b b' bs got js hjobs => ⟨fun h => ?_, fun a n h hb => ?_, fun a ws h hb => ?_⟩, fun h => ?_⟩
    · rw [idleBurst_of_bursts hjobs, h]; rfl
    · rw [idleBurst_of_bursts hjobs, h, hb]; rfl
    · rw [idleBurst_of_bursts hjobs, h, hb]; rfl
    · rw [idleBurst_of_last h]

end Sys2Proof.Machine
end

-- ==== Proofs: report jobs and report words ====
section
/-! SUPPORT. The settlement of `ReportJobs` (O59): the ring test and the job of a report, its completion, the end of a
lot, and the words of the three reports. -/

namespace Sys2Proof.Machine

/-! ## The head of the report queue (R156, R157) -/

theorem reportInFlight_eq_false_iff (s : State) :
    reportInFlight s = false ↔ ∀ j ∈ s.path.jobs, j.kind.isReport = false := by
  simp [reportInFlight]

theorem writableReport_eq_some_iff (s : State) (z : Zone) (r : Report) : writableReport s = some (z, r) ↔
    zoneOf s .reports = some z ∧ (∃ rs, s.report.queue = r :: rs) ∧ reportInFlight s = false ∧
      ringNeed s (ringWords z) r.words.length ≤ ringFree s (ringWords z) := by
  unfold writableReport
  cases hz : zoneOf s .reports with
  | none => simp
  | some z' =>
    cases hq : s.report.queue with
    | nil => simp
    | cons r' rs' =>
      simp only [Option.ite_none_left_eq_some, Bool.or_eq_true, not_or, Bool.not_eq_true, decide_eq_true_eq, not_lt,
        Option.some.injEq, Prod.mk.injEq, List.cons.injEq, exists_and_left, exists_eq', and_true]
      constructor
      · rintro ⟨⟨hflight, hroom⟩, rfl, rfl⟩
        exact ⟨rfl, rfl, hflight, hroom⟩
      · rintro ⟨rfl, rfl, hflight, hroom⟩
        exact ⟨⟨hflight, hroom⟩, rfl, rfl⟩

theorem writableReport_isSome_iff (s : State) : (writableReport s).isSome = true ↔
    ∃ z r rs, zoneOf s .reports = some z ∧ s.report.queue = r :: rs ∧ reportInFlight s = false ∧
      ringNeed s (ringWords z) r.words.length ≤ ringFree s (ringWords z) := by
  rw [Option.isSome_iff_exists]
  constructor
  · rintro ⟨⟨z, r⟩, h⟩
    obtain ⟨hz, ⟨rs, hq⟩, hrest⟩ := (writableReport_eq_some_iff s z r).mp h
    exact ⟨z, r, rs, hz, hq, hrest⟩
  · rintro ⟨z, r, rs, hz, hq, hrest⟩
    exact ⟨(z, r), (writableReport_eq_some_iff s z r).mpr ⟨hz, ⟨rs, hq⟩, hrest⟩⟩

theorem queueReport_of_none {s : State} (h : writableReport s = none) : queueReport s = s := by
  rw [queueReport, nextReportJob, h]; rfl

theorem queueReport_of_place {s : State} {z : Zone} {r : Report} (h : writableReport s = some (z, r))
    (hplace : mayTakePlace s .report = true) :
    queueReport s = pushJob (reportJob s z r) (endWait .report s) := by
  rw [queueReport, nextReportJob, h, hplace]; rfl

theorem queueReport_of_noPlace {s : State} {z : Zone} {r : Report} (h : writableReport s = some (z, r))
    (hplace : mayTakePlace s .report = false) : queueReport s = beginWait .report s := by
  rw [queueReport, nextReportJob, h, hplace]; rfl

/-- The free words of the ring, as the distance from the producer to the consumer (R156). -/
theorem ringFree_eq {s : State} {n : Nat} (h : s.report.producer < n) :
    ringFree s n = (((s.report.consumer : Int) - s.report.producer - 1) % n).toNat := by
  have hshift : ((s.report.consumer : Int) - s.report.producer - 1) % n =
      ((s.report.consumer + (n - 1 - s.report.producer) : Nat) : Int) % n := by
    rw [← Int.add_emod_right]
    congr 1
    omega
  rw [hshift, ringFree, ← Int.natCast_mod, Int.toNat_natCast]

/-- A header shows the kind in its low byte and the length above it (R187). -/
theorem reportHeader_eq {kind : Nat} (h : kind < 256) (len : Nat) : reportHeader kind len = word (kind + 256 * len) := by
  unfold reportHeader word
  rw [put_of_lt (width := 8) h, put]
  apply BitVec.eq_of_toNat_eq
  rw [BitVec.toNat_ofNat, BitVec.toNat_ofNat]
  omega

/-! ## Waiting for a place (R184) -/

theorem noteReport_of_lacks {s : State} (h : (writableReport s).isSome = true) (hplace : mayTakePlace s .report = false) :
    noteReport s = { s with path := { s.path with waiters := joinWaiters .report s.path.waiters } } := by
  have hlacks : reportLacksPlace s = true := by rw [reportLacksPlace, h, hplace]; rfl
  rw [noteReport, if_pos hlacks]

theorem noteReport_of_not_lacks {s : State} (h : (writableReport s).isSome = false ∨ mayTakePlace s .report = true) :
    noteReport s = s := by
  refine noteReport_id s ?_
  rcases h with hnone | hplace
  · rw [reportLacksPlace, hnone]; rfl
  · rw [reportLacksPlace, hplace]; simp

/-! ## Completion of a REPORT job (R87, R158, R165) -/

theorem completeReport_of_tag {s : State} {r : ReportJob} {t : ReportTag} (h : headKind s = some (.report r))
    (ht : r.tag = some t) : completeReport s = ringTest (reportWritten r t (finishHead s)) := by
  rw [completeReport, h]
  dsimp only
  rw [ht]

theorem completeReport_of_noTag {s : State} {r : ReportJob} (h : headKind s = some (.report r))
    (ht : r.tag = none) : completeReport s = ringTest (finishHead s) := by
  rw [completeReport, h]
  dsimp only
  rw [ht]

theorem handReport_wafer {s : State} {i : Nat} {w : Wafer} (hreset : s.cmd.resetting = false)
    (hw : waferAt s i = some w) : handReport (.wafer i) s = requestTest w.run
      (updWafer i (fun x => { x with acc := none }) { s with table := s.table.filter fun e => e.wafer != i }) := by
  have hafter : waferAt (updWafer i (fun x => { x with acc := none })
      { s with table := s.table.filter fun e => e.wafer != i }) i = some { w with acc := none } := by
    rw [waferAt_updWafer_same, show waferAt { s with table := s.table.filter fun e => e.wafer != i } i = some w from hw]
    rfl
  unfold handReport
  rw [hreset]
  change waferReportWritten i s = _
  unfold waferReportWritten
  dsimp only
  rw [hafter]

theorem handReport_lot {s : State} {run : Nat} {l : Lot} (hreset : s.cmd.resetting = false)
    (hl : lotOfRun s run = some l) : handReport (.lot run) s = endLot l s := by
  unfold handReport
  rw [hreset]
  change lotReportWritten run s = _
  rw [lotReportWritten, hl]

/-! ## The end of a lot (R13, R130) -/

theorem reloadIfDue_iff (s : State) : (s.path.reloadPending && (lotList s).isEmpty && !s.cmd.resetting) = true ↔
    s.path.reloadPending = true ∧ s.lots = ⟨none, none⟩ ∧ s.cmd.resetting = false := by
  rw [Bool.and_eq_true, Bool.and_eq_true, lotList_isEmpty_iff, Bool.not_eq_true', and_assoc]

/-! ## The words of the reports (R150 to R154) -/

/-- One word for each class with a count above zero, in rising class order (R151, R153). -/
theorem classPairs_eq (c : Nat) (counts : List Nat) (hc : c + counts.length ≤ 256) (h : ∀ n ∈ counts, n ≤ 65535) :
    classPairs c counts = ((List.range counts.length).filter fun k => decide (0 < counts.getD k 0)).map
      fun k => word (c + k + 65536 * counts.getD k 0) := by
  induction counts generalizing c with
  | nil => rfl
  | cons n counts ih =>
    obtain ⟨hn, hrest⟩ := List.forall_mem_cons.mp h
    rw [List.length_cons] at hc
    have hpair : put c 0 8 + put n 16 16 = c + 65536 * n := by
      rw [put_of_lt (by omega), put_of_lt (by omega)]; simp
    have htail : ((List.range counts.length).map (· + 1)).filter (fun k => decide (0 < (n :: counts).getD k 0)) =
        ((List.range counts.length).filter fun k => decide (0 < counts.getD k 0)).map (· + 1) := by
      rw [List.filter_map]; rfl
    have hwords : (((List.range counts.length).filter fun k => decide (0 < counts.getD k 0)).map (· + 1)).map
        (fun k => word (c + k + 65536 * (n :: counts).getD k 0)) = classPairs (c + 1) counts := by
      rw [ih (c + 1) (by omega) hrest, List.map_map]
      refine List.map_congr_left fun k _ => ?_
      simp [Nat.add_assoc, Nat.add_comm 1 k]
    rw [classPairs, List.length_cons, List.range_succ_eq_map, List.filter_cons, htail, hpair]
    by_cases hpos : 0 < n
    · rw [if_pos hpos, if_pos (by simpa using hpos), List.map_cons, hwords]; rfl
    · rw [if_neg hpos, if_neg (by simpa using hpos), hwords]

theorem classPairs_of_classes {counts : List Nat} (hlen : counts.length = 32) (h : ∀ n ∈ counts, n ≤ 65535) :
    classPairs 0 counts = ((List.range 32).filter fun c => decide (0 < counts.getD c 0)).map
      fun c => word (c + 65536 * counts.getD c 0) := by
  rw [classPairs_eq 0 counts (by omega) h, hlen]
  simp only [Nat.zero_add]

theorem runsWord_eq {runs : List Nat} (h : ∀ r ∈ runs, r ≤ 25) :
    runsWord runs = word (runs.getD 0 0 + 2 ^ 8 * runs.getD 1 0 + 2 ^ 16 * runs.getD 2 0 + 2 ^ 24 * runs.getD 3 0) := by
  have hbyte (k : Nat) : runs.getD k 0 < 2 ^ 8 := by
    rw [List.getD_eq_getElem?_getD]
    cases hk : runs[k]? with
    | none => decide
    | some r => have := h r (List.mem_of_getElem? hk); simp only [Option.getD_some]; omega
  unfold runsWord
  rw [put_of_lt (hbyte 0), put_of_lt (hbyte 1), put_of_lt (hbyte 2), put_of_lt (hbyte 3), Nat.pow_zero, Nat.one_mul]

theorem countOutcome_eq (s : State) (run : Nat) (o : WaferOutcome) : countOutcome s run o =
    (List.range 50).countP fun i => (waferAt s i).any fun w => w.run == run && w.outcome == some o :=
  countP_wafersOfLot s run fun w => w.outcome == some o

theorem mapAnswer_eq (s : State) (i : Nat) (heights : List Int)
    (h : heights = if stageWafer s = some i then s.focus.map.map (·.z) else []) :
    mapAnswer s i = (heights.length, roundDiv heights.sum heights.length) := by
  subst h
  unfold mapAnswer meanOf
  split
  · rw [List.length_map]
  · rfl

theorem FocusState.code_lt (f : FocusState) : f.code < 2 ^ 8 := by cases f <;> decide

theorem sampleWords_eq (x : TraceSample) : sampleWords x = [x.z, word (x.quality.toNat + 256 * x.state.code)] := by
  unfold sampleWords
  rw [put_of_lt x.quality.isLt, put_of_lt x.state.code_lt, Nat.pow_zero, Nat.one_mul]
  rfl

/-- Settles O59: the job of a report and its turn among the producers, the completion by its tag, the end of a lot by
what it frees, and the words of each report field by field. -/
theorem reportJobs : Obligations.ReportJobs := by
  refine ⟨fun z r rs s hrun hz hq hflight => ?_, fun s hrun hnone => ?_, fun s => ?_, fun r s hhead hrun => ?_,
    fun t s hreset => ?_, fun s hreset => ?_, fun l s => ?_, ?_⟩
  · intro n p len free padded need start next wrap addr job hp
    have hroom : ringFree s (ringWords z) = free := ringFree_eq hp
    have hneed : ringNeed s (ringWords z) r.words.length = need := rfl
    have hflight' : reportInFlight s = false := (reportInFlight_eq_false_iff s).mpr hflight
    have hwritable (h : need ≤ free) : writableReport s = some (z, r) :=
      (writableReport_eq_some_iff s z r).mpr ⟨hz, ⟨rs, hq⟩, hflight', by rw [hneed, hroom]; exact h⟩
    have hjob : reportJob s z r = job := by
      unfold reportJob
      dsimp only
      rw [reportHeader_eq (kind := 4) (by decide)]
      simp only [Bool.or_eq_true, decide_eq_true_eq]
      rfl
    refine ⟨fun hshort => ?_, ?_⟩
    · have hno : writableReport s = none := by
        rw [Option.eq_none_iff_forall_ne_some]
        rintro ⟨z', r'⟩ h
        obtain ⟨hz', ⟨rs', hq'⟩, -, hfits⟩ := (writableReport_eq_some_iff s z' r').mp h
        cases hz.symm.trans hz'
        cases hq.symm.trans hq'
        rw [hneed, hroom] at hfits
        omega
      exact congrArg Host.Outcome.next ((congrArg finish (queueReport_of_none hno)).trans (finish_idle s hrun))
    · intro place
      have hplace : mayTakePlace s .report = true ↔ place := mayTakePlace_iff s .report
      refine ⟨fun hfits hp => ?_, fun hfits hp => ?_⟩
      · have hqueued := queueReport_of_place (hwritable hfits) (hplace.mpr hp)
        rw [hjob, endWait, filter_ne_producer] at hqueued
        exact congrArg Host.Outcome.next ((congrArg finish hqueued).trans (finish_idle _ hrun))
      · have hwaits := queueReport_of_noPlace (hwritable hfits) (Bool.eq_false_iff.mpr fun h => hp (hplace.mp h))
        exact congrArg Host.Outcome.next ((congrArg finish hwaits).trans (finish_idle _ hrun))
  · have hno : writableReport s = none := by
      rw [Option.eq_none_iff_forall_ne_some]
      rintro ⟨z, r⟩ h
      obtain ⟨hz, ⟨rs, hq⟩, hflight, -⟩ := (writableReport_eq_some_iff s z r).mp h
      rcases hnone with hz' | hq' | ⟨j, hj, hj'⟩
      · cases hz'.symm.trans hz
      · cases hq'.symm.trans hq
      · rw [(reportInFlight_eq_false_iff s).mp hflight j hj] at hj'; cases hj'
    exact congrArg Host.Outcome.next ((congrArg finish (queueReport_of_none hno)).trans (finish_idle s hrun))
  · intro needs place
    have hplace : mayTakePlace s .report = true ↔ place := mayTakePlace_iff s .report
    have hneeds : (writableReport s).isSome = true ↔ needs := by
      rw [writableReport_isSome_iff]
      simp only [reportInFlight_eq_false_iff]
      rfl
    refine ⟨fun h hp hnot => ?_, fun h => ?_, fun h => ?_, fun h => ?_⟩
    · rw [noteReport_of_lacks (hneeds.mpr h) (Bool.eq_false_iff.mpr fun h => hp (hplace.mp h)), joinWaiters, if_neg hnot]
    · rcases h with hno | hp | hin
      · exact noteReport_of_not_lacks (.inl (Bool.eq_false_iff.mpr fun h => hno (hneeds.mp h)))
      · exact noteReport_of_not_lacks (.inr (hplace.mpr hp))
      · unfold noteReport
        rw [joinWaiters, if_pos hin, ite_self]
    · exact if_pos (hneeds.mpr h)
    · rw [← filter_ne_producer]
      exact if_neg fun h' => h (hneeds.mp h')
  · obtain ⟨j, js, hj, hk, hfinished⟩ := finishHead_of_headKind hhead
    refine ⟨fun htag => ?_, fun t htag => ?_⟩
    · have hdone := completeReport_of_noTag hhead htag
      have hidle : NoRunDue (ringTest (finishHead s)) := by
        rw [NoRunDue, ringTest_handling, finishHead_handling]; exact hrun
      exact congrArg Host.Outcome.next ((congrArg finish hdone).trans (finish_idle _ hidle))
    · have hdone := completeReport_of_tag hhead htag
      refine congrArg Host.Outcome.next (congrArg finish (hdone.trans ?_))
      rw [reportWritten, finishHead_report]
      cases t <;> rfl
  · unfold handReport; rw [hreset]; rfl
  · refine ⟨fun i => ?_, fun run l hl => handReport_lot hreset hl, fun i w hw => handReport_wafer hreset hw⟩
    unfold handReport; rw [hreset]; rfl
  · intro freed reviewed t reloads
    have hlots : t.lots = freed.lots := by rw [wantPlan_lots, postEvent_lots]
    have hended : endLot l s = reloadIfDue t := by
      unfold endLot
      dsimp only
      rw [countOutcome_eq]
      rfl
    have hreloads : (t.path.reloadPending && (lotList t).isEmpty && !t.cmd.resetting) = true ↔ reloads := by
      rw [reloadIfDue_iff, hlots, wantPlan_path, wantPlan_cmd, postEvent_reloadPending, postEvent_resetting]
    refine ⟨fun h => ?_, fun h => ?_⟩
    · rw [hended, reloadIfDue, if_neg fun h' => h (hreloads.mp h')]
    · rw [hended, reloadIfDue, if_pos (hreloads.mpr h), beginReload, endWait, filter_ne_producer]
  · intro pairs classes
    refine ⟨fun s i w a runs hclasses hruns => ?_, fun s l a hclasses => ?_, fun t hsamples => ?_⟩
    · intro p heights
      have hp : classPairs 0 a.classCounts = p := classPairs_of_classes hclasses.1 hclasses.2
      have hmap : mapAnswer s i = (heights.length, roundDiv heights.sum heights.length) := mapAnswer_eq s i heights rfl
      unfold waferReportWords meanOffset
      rw [hp, hmap, runsWord_eq hruns]
      dsimp only
      rw [reportHeader_eq (kind := 1) (by decide)]
      cases w.outcome <;> cases w.transform <;> cases w.prealign <;> rfl
    · intro p ended flag
      have hp : classPairs 0 a.totals = p := classPairs_of_classes hclasses.1 hclasses.2
      unfold lotReportWords flagsWord
      rw [hp]
      dsimp only
      rw [reportHeader_eq (kind := 2) (by decide)]
      simp only [countOutcome_eq]
      cases a.saturated <;> rcases l.port with _ | _ | _ <;> rfl
    · intro n
      unfold traceReportWords
      rw [reportHeader_eq (by decide), funext sampleWords_eq]

end Sys2Proof.Machine
end

-- ==== Proofs: map reloads and the soft reset ====
section
/-! SUPPORT. The settlements of `MapReload` (O51) and `SoftReset` (O50). -/

namespace Sys2Proof.Machine

/-! ## A map reload (R170, R172, R173) -/

theorem requestReload_of_begins {s : State} (hlots : s.lots = ⟨none, none⟩) (hreset : s.cmd.resetting = false)
    (hwaiters : s.path.waiters = []) :
    requestReload s = { s with path := { s.path with draining := true, upBurst := .none, waiters := [] } } := by
  have hbegins : ((lotList s).isEmpty && !s.cmd.resetting) = true := by
    rw [(lotList_isEmpty_iff s).mpr hlots, hreset]; rfl
  rw [requestReload, if_pos hbegins, beginReload, endWait, hwaiters]
  rfl

theorem requestReload_of_waits {s : State} (h : s.lots ≠ ⟨none, none⟩ ∨ s.cmd.resetting = true) :
    requestReload s = { s with path := { s.path with reloadPending := true } } := by
  refine if_neg fun hbegins => ?_
  rw [Bool.and_eq_true, lotList_isEmpty_iff, Bool.not_eq_true'] at hbegins
  rcases h with hlots | hreset
  · exact hlots hbegins.1
  · rw [hreset] at hbegins; exact nomatch hbegins.2

theorem loadingDue_iff (s : State) : loadingDue s = true ↔
    s.path.mode ≠ .loading ∧ s.path.jobs = [] ∧ Producer.layout ∉ s.path.waiters ∧
      (s.path.draining = true ∨ (s.cmd.resetting = true ∧ s.handling.order = none)) := by
  simp [loadingDue, and_assoc]

/-- MAP_RELOAD is taken by a MAPPED and by a TRANSPARENT path (R188). -/
theorem firstRefusal_mapReload {s : State} (hreset : s.cmd.resetting = false) (hstart : s.cmd.lotStart = none) :
    firstRefusal 12 s = none := by
  simp [firstRefusal, hreset, hstart]

/-- Settles O51: the request begins or waits by the lots queued, and LOADING begins where it is due. -/
theorem mapReload : Obligations.MapReload := by
  refine ⟨fun w s hopen hrun hreset hstart => ?_, fun w s hopen hrun => ?_, fun s hrun => ?_⟩
  · intro u ok
    have hwaiters : s.path.waiters = [] := hopen.bus.noProducer
    have hexec : exec (.mapReload w) s = .next (finish (requestReload ok)) :=
      exec_carryOut (v := 12) rfl hopen ((firstRefusal_commandSeen 12 w s).trans (firstRefusal_mapReload hreset hstart))
    refine ⟨fun hlots => ?_, fun hlots => ?_⟩
    · rw [hexec, requestReload_of_begins (s := ok) hlots hreset hwaiters, ← hwaiters]
      exact congrArg Host.Outcome.next (finish_idle _ hrun)
    · rw [hexec, requestReload_of_waits (s := ok) (.inl hlots)]
      exact congrArg Host.Outcome.next (finish_idle _ hrun)
  · intro u
    have hwaiters : s.path.waiters = [] := hopen.bus.noProducer
    refine ⟨fun hlots hreset => ?_, fun hwaits => ?_⟩
    · refine exec_cellWrite 0 w rfl hopen hrun rfl (by decide)
        ((requestReload_of_begins (s := u) hlots hreset hwaiters).trans ?_) rfl
      rw [← hwaiters]
      rfl
    · exact exec_cellWrite 0 w rfl hopen hrun rfl (by decide) (requestReload_of_waits (s := u) hwaits) rfl
  · intro due
    have hexec : exec .loadingBegin s = .next (finish (if loadingDue s then beginLoading s else s)) := rfl
    refine ⟨fun h => ?_, fun h => ?_⟩
    · rw [hexec, if_pos ((loadingDue_iff s).mpr h)]
      exact congrArg Host.Outcome.next (finish_idle _ hrun)
    · rw [hexec, if_neg fun h' => h ((loadingDue_iff s).mp h'), finish_idle s hrun]

/-! ## SOFT_RESET (R68, R89, R114, R138, R165, R190, R191) -/

/-- SOFT_RESET is taken in every path mode, and with a LOT_START in progress too (R188, R190). -/
theorem firstRefusal_softReset {s : State} (hreset : s.cmd.resetting = false) : firstRefusal 13 s = none := by
  simp [firstRefusal, hreset]

/-- The state that the start of a soft reset leaves, with the visit and the messages that a move in flight leaves. -/
def resetStart (v : VisitUnit) (out : List LinkMessage) (s : State) : State :=
  { s with
    path := { s.path with
      waiters := ((s.path.waiters.filter (· ≠ .layout)).filter (· ≠ .report)).filter (· ≠ .fetch) }
    cmd := { s.cmd with
      code := .accepted, resetting := true, resetCause := .soft, warm := true, lotStart := none
      causes := if s.guard.state = .hardTripped then s.cmd.causes &&& Category.fault.bit else 0 }
    visit := v
    out := out
    focus := { s.focus with
      state := .idle, unsettled := false, run := 0, settle := 0, holdover := 0, accepted := [], predicted := none
      strobeHeight := none, map := [], seed := none, trace := none, traceHanded := false }
    table := []
    wafers := s.wafers.map (Option.map resetWafer)
    lots := ⟨s.lots.active.map fun l => { l with acc := none }, s.lots.second.map fun l => { l with acc := none }⟩
    report := { s.report with queue := [] } }

/-- The visit unit after the start of a soft reset (R114). -/
def resetVisitUnit (s : State) : VisitUnit :=
  { s.visit with
    current := none, lastResult := none, move := none
    hold := ⟨false, false, none, s.visit.hold.guard && s.guard.state == .hardTripped⟩ }

theorem cmdSoftReset_eq (s : State) : cmdSoftReset s =
    resetStart (resetVisitUnit s) (if s.visit.move = none then s.out else .halt :: s.out) s := by
  have hunit (h : s.visit.move = none) : ({ s.visit with
      current := none, lastResult := none
      hold := ⟨false, false, none, s.visit.hold.guard && s.guard.state == .hardTripped⟩ } : VisitUnit)
      = resetVisitUnit s := by
    rw [resetVisitUnit, ← h]
  unfold cmdSoftReset resetFocus resetVisit
  cases hmove : s.visit.move with
  | none =>
    have hstill : haltMove (resetCommand s) = resetCommand s := by
      unfold haltMove
      rw [show (resetCommand s).visit.move = none from hmove]
    rw [hstill, if_pos rfl, ← hunit hmove]
    rfl
  | some m =>
    have hhalt : haltMove (resetCommand s) =
        send .halt { resetCommand s with visit := { (resetCommand s).visit with move := none } } := by
      unfold haltMove
      rw [show (resetCommand s).visit.move = some m from hmove]
    rw [hhalt, if_neg (by nofun)]
    rfl

theorem acc_of_mem_resetStart {s : State} {v : VisitUnit} {out : List LinkMessage} {l : Lot}
    (h : l ∈ lotList (resetStart v out s)) : l.acc = none := by
  simp only [lotList, resetStart, Option.toList_map, List.mem_append, List.mem_map] at h
  rcases h with ⟨x, -, rfl⟩ | ⟨x, -, rfl⟩ <;> rfl

/-- Settles O50: the start of a soft reset, unit by unit. -/
theorem softReset : Obligations.SoftReset := by
  intro w s hopen hreset hrun
  have hexec : exec (.softReset w) s = .next (finish (cmdSoftReset (commandSeen 13 w s))) :=
    exec_carryOut (v := 13) rfl hopen ((firstRefusal_commandSeen 13 w s).trans (firstRefusal_softReset hreset))
  have hstart := cmdSoftReset_eq (commandSeen 13 w s)
  have hidle : finish (cmdSoftReset (commandSeen 13 w s)) = cmdSoftReset (commandSeen 13 w s) := by
    rw [hstart]
    exact finish_idle _ hrun
  refine ⟨_, hexec.trans (congrArg Host.Outcome.next (hidle.trans hstart)), ?_⟩
  intro latched
  have hguard : (s.visit.hold.guard && s.guard.state == .hardTripped) = true ↔ s.visit.hold.guard = true ∧ latched := by
    rw [Bool.and_eq_true, beq_iff_eq]
  refine ⟨rfl, rfl, rfl, rfl, rfl, rfl, rfl, rfl, rfl, rfl, rfl, rfl, rfl, rfl, rfl, rfl, rfl, rfl, hguard, rfl, rfl, rfl, rfl,
    rfl, rfl, rfl, rfl, rfl, rfl, rfl, fun l hl => acc_of_mem_resetStart hl, fun i x hx => ?_, rfl, rfl, rfl⟩
  rw [waferAt_map (s := s) (g := Option.map resetWafer) rfl rfl, Option.map_eq_some_iff] at hx
  obtain ⟨y, hy, rfl⟩ := hx
  exact ⟨y, hy, rfl, rfl, rfl, rfl, rfl, rfl, rfl⟩

end Sys2Proof.Machine
end

-- ==== Proofs: mark and intake records ====
section
/-! SUPPORT. The settlements of `MarkRecordAnswered` (O33) and `IntakeRecordAnswered` (O35). -/

namespace Sys2Proof.Machine

/-! ## The answer to a record takes the place of its FETCH job (R177) -/

/-- The state with the ACCEPT job of a record in the place of its FETCH job. -/
def recordAnswered (slot : Nat) (c : AcceptCode) (seq : Byte) (entry : Nat) (s : State) : State :=
  pushJob (acceptJob slot c seq entry) (finishHead s)

theorem recordAnswered_wafers (slot : Nat) (c : AcceptCode) (seq : Byte) (entry : Nat) (s : State) :
    (recordAnswered slot c seq entry s).wafers = s.wafers := finishHead_wafers s

theorem recordAnswered_visit (slot : Nat) (c : AcceptCode) (seq : Byte) (entry : Nat) (s : State) :
    (recordAnswered slot c seq entry s).visit = s.visit := finishHead_visit s

theorem recordAnswered_table (slot : Nat) (c : AcceptCode) (seq : Byte) (entry : Nat) (s : State) :
    (recordAnswered slot c seq entry s).table = s.table := finishHead_table s

theorem recordAnswered_handling (slot : Nat) (c : AcceptCode) (seq : Byte) (entry : Nat) (s : State) :
    (recordAnswered slot c seq entry s).handling = s.handling := finishHead_handling s

/-- A record that is answered, and does no more, ends its step. -/
theorem finish_recordAnswered {s : State} (hrun : NoRunDue s) (slot : Nat) (c : AcceptCode) (seq : Byte) (entry : Nat) :
    finish (recordAnswered slot c seq entry s) = recordAnswered slot c seq entry s :=
  finish_of_handling hrun (recordAnswered_handling slot c seq entry s)

/-! ## MARK_RECORD (R50, R51, R68) -/

theorem markAnswer_congr {s t : State} (h : t.wafers = s.wafers) (r : MarkRecord) : markAnswer t r = markAnswer s r := by
  unfold markAnswer; rw [waferAt_congr h]

theorem isCollecting_congr {s t : State} (h : t.wafers = s.wafers) (i : Nat) : isCollecting t i = isCollecting s i := by
  unfold isCollecting; rw [waferAt_congr h]

/-- The marks held have room for a mark of a role (R50). -/
theorem hasRoom_eq_false_iff (al : Align) {role : Nat} (h : role ≤ 2) : hasRoom al role = false ↔
    (role = 0 ∧ al.primary ≠ none) ∨ (role = 1 ∧ al.secondary ≠ none) ∨ (role = 2 ∧ 2 ≤ al.checks.length) := by
  unfold hasRoom
  obtain rfl | rfl | rfl : role = 0 ∨ role = 1 ∨ role = 2 := by omega
  · simp [Option.ne_none_iff_isSome]
  · simp [Option.ne_none_iff_isSome]
  · simp [Nat.lt_iff_add_one_le]

section MarkTests

variable {s : State} {r : MarkRecord}

theorem markAnswer_badField (h : ¬ (r.wafer ≤ 49 ∧ r.role ≤ 2)) : markAnswer s r = .badField :=
  if_pos (by omega)

theorem markAnswer_none (hgood : r.wafer ≤ 49 ∧ r.role ≤ 2) (hw : waferAt s r.wafer = none) :
    markAnswer s r = .notAligning := by
  rw [markAnswer, if_neg (by omega), hw]

theorem markAnswer_some {w : Wafer} (hgood : r.wafer ≤ 49 ∧ r.role ≤ 2) (hw : waferAt s r.wafer = some w) :
    markAnswer s r = if w.align.state = .none ∨ w.aborting then .notAligning
      else if w.align.state = .closeWaiting then .markExcess
      else if hasRoom w.align r.role then .accepted else .markExcess := by
  rw [markAnswer, if_neg (by omega), hw]

theorem isCollecting_some {w : Wafer} {i : Nat} (hw : waferAt s i = some w) :
    isCollecting s i = (w.align.state == .collecting) := by
  rw [isCollecting, hw]; rfl

end MarkTests

/-- An attempt that a last flag closes: its verdict waits for the visit in flight, or is given (R51). -/
theorem closeAttempt_eq {s t : State} (h : t.visit = s.visit) (i : Nat) : closeAttempt i t =
    if (s.visit.current.any fun v => v.wafer == i) = true
      then updWafer i (fun x => { x with align := { x.align with state := .closeWaiting } }) t
      else giveVerdict i t := by
  unfold closeAttempt visitOf
  rw [h]

theorem exec_markRecord_resetting {s : State} {slot : Nat} {seq : Byte} {last : Bool} (hrun : NoRunDue s)
    (hf : fetchedSlot s .marks = some (slot, seq, last)) (hreset : s.cmd.resetting = true) :
    exec .markRecord s = .next (finishHead s) := by
  have hdone : completeMark s = finishHead s := by rw [completeMark, hf]; exact if_pos hreset
  exact congrArg Host.Outcome.next ((congrArg finish hdone).trans (finish_of_handling hrun (finishHead_handling s)))

theorem exec_markRecord {s : State} {slot : Nat} {seq : Byte} {last : Bool}
    (hf : fetchedSlot s .marks = some (slot, seq, last)) (hreset : s.cmd.resetting = false) {c : AcceptCode}
    (hc : markAnswer s (.ofWords (headWords s)) = c) :
    exec .markRecord s = .next (finish (closeOnLast (.ofWords (headWords s)) c last
      (if c = .accepted then updWafer (MarkRecord.ofWords (headWords s)).wafer
          (fun w => { w with align := addMark (.ofWords (headWords s)) w.align }) (recordAnswered slot c seq 0 s)
        else recordAnswered slot c seq 0 s))) := by
  have hdone : completeMark s = answerMark slot seq last (.ofWords (headWords s)) (finishHead s) := by
    rw [completeMark, hf]; exact if_neg (by rw [hreset]; nofun)
  have hcode := (markAnswer_congr (finishHead_wafers s) (.ofWords (headWords s))).trans hc
  refine congrArg Host.Outcome.next (congrArg finish (hdone.trans ?_))
  unfold answerMark
  rw [hcode]
  rfl

theorem closeOnLast_of_refused {s : State} {r : MarkRecord} {c : AcceptCode} {last : Bool}
    (h : c ≠ .accepted ∧ c ≠ .markExcess) : closeOnLast r c last s = s := by
  refine if_neg ?_
  rw [Bool.and_eq_true, Bool.and_eq_true, Bool.or_eq_true, beq_iff_eq, beq_iff_eq]
  rintro ⟨⟨-, hc⟩, -⟩
  exact hc.elim h.1 h.2

theorem closeOnLast_of_taken {s t : State} {r : MarkRecord} {c : AcceptCode} {last : Bool}
    (h : c = .accepted ∨ c = .markExcess) (ht : t.visit = s.visit) : closeOnLast r c last t =
    if (last && isCollecting t r.wafer) = true then dispatch
      (if (s.visit.current.any fun v => v.wafer == r.wafer) = true
        then updWafer r.wafer (fun x => { x with align := { x.align with state := .closeWaiting } }) t
        else giveVerdict r.wafer t) else t := by
  have hc : (c == .accepted || c == .markExcess) = true := by rcases h with rfl | rfl <;> rfl
  unfold closeOnLast
  rw [hc, Bool.and_true, closeAttempt_eq ht]

/-- Settles O33: the first test of `markAnswer` that holds, and what a last flag then closes. -/
theorem markRecordAnswered : Obligations.MarkRecordAnswered := by
  refine ⟨fun s slot seq last hrun hf => ?_, fun w1 w2 w3 w4 w5 w6 => ?_, fun r al => ⟨fun h => ?_, fun h => ?_, fun h => ?_⟩⟩
  · intro r w st full answered closed good open' joined
    have hrefused {c : AcceptCode} (hreset : s.cmd.resetting = false) (hc : markAnswer s r = c)
        (hne : c ≠ .accepted ∧ c ≠ .markExcess) : exec .markRecord s = .next (answered c) := by
      rw [exec_markRecord hf hreset hc, if_neg hne.1, closeOnLast_of_refused hne, finish_recordAnswered hrun]
      rfl
    refine ⟨exec_markRecord_resetting hrun hf, fun hreset hbad => ?_, fun hreset hgood hclosed => ?_,
      fun hreset hgood hopen hfull => ?_, fun hreset hgood hopen hroom => ?_⟩
    · exact hrefused hreset (markAnswer_badField hbad) ⟨by nofun, by nofun⟩
    · refine hrefused hreset ?_ ⟨by nofun, by nofun⟩
      cases hw : waferAt s r.wafer with
      | none => exact markAnswer_none hgood hw
      | some x =>
        refine (markAnswer_some hgood hw).trans (if_pos ?_)
        by_contra hno
        rw [not_or] at hno
        refine hclosed ⟨?_, fun y hy => ?_⟩
        · simp only [st, w, hw]; exact hno.1
        · cases hw.symm.trans hy; exact Bool.eq_false_iff.mpr hno.2
    · obtain ⟨hst, haborting⟩ := hopen
      cases hw : waferAt s r.wafer with
      | none => exact absurd (by simp only [st, w, hw]; rfl) hst
      | some x =>
        have hstate : st = x.align.state := by simp only [st, w, hw]; rfl
        rw [hstate] at hst
        have hcode : markAnswer s r = .markExcess := by
          rw [markAnswer_some hgood hw, if_neg (by rw [haborting x hw]; simpa using hst)]
          rcases hfull with hwaiting | ⟨y, hy, hheld⟩
          · exact if_pos (hstate ▸ hwaiting)
          · cases hw.symm.trans hy
            rw [(hasRoom_eq_false_iff x.align hgood.2).mpr hheld]
            exact ite_self _
        have hcollecting : isCollecting (recordAnswered slot .markExcess seq 0 s) r.wafer = (st == .collecting) := by
          rw [isCollecting_congr (recordAnswered_wafers slot .markExcess seq 0 s), isCollecting_some hw, hstate]
        rw [exec_markRecord hf hreset hcode, if_neg (by nofun),
          closeOnLast_of_taken (.inr rfl) (recordAnswered_visit slot .markExcess seq 0 s), hcollecting]
        split
        · rfl
        · rw [finish_recordAnswered hrun]; rfl
    · obtain ⟨hst, haborting⟩ := hopen
      obtain ⟨hnotwaiting, hfree⟩ := not_or.mp hroom
      cases hw : waferAt s r.wafer with
      | none => exact absurd (by simp only [st, w, hw]; rfl) hst
      | some x =>
        have hstate : st = x.align.state := by simp only [st, w, hw]; rfl
        rw [hstate] at hst hnotwaiting
        have hcollects : x.align.state = .collecting := by
          cases hx : x.align.state
          · exact absurd hx hst
          · rfl
          · exact absurd hx hnotwaiting
        have hcode : markAnswer s r = .accepted := by
          rw [markAnswer_some hgood hw, if_neg (by rw [haborting x hw]; simpa using hst), if_neg hnotwaiting]
          refine if_pos (Bool.not_eq_false _ ▸ fun h => hfree ⟨x, hw, (hasRoom_eq_false_iff x.align hgood.2).mp h⟩)
        have hadd : (addMark r x.align).state = x.align.state := by
          unfold addMark; split
          · rfl
          · split <;> rfl
        have hafter : waferAt joined r.wafer = some { x with align := addMark r x.align } := by
          have hbefore : waferAt (answered .accepted) r.wafer = some x :=
            (waferAt_congr (recordAnswered_wafers slot .accepted seq 0 s) r.wafer).trans hw
          rw [waferAt_updWafer_same, hbefore]
          rfl
        have hcollecting : isCollecting joined r.wafer = true := by
          rw [isCollecting_some hafter]
          change ((addMark r x.align).state == _) = _
          rw [hadd, hcollects]; rfl
        rw [exec_markRecord hf hreset hcode, if_pos rfl]
        refine congrArg Host.Outcome.next ((congrArg finish (closeOnLast_of_taken (s := s) (t := joined) (.inl rfl)
          (recordAnswered_visit slot .accepted seq 0 s))).trans ?_)
        rw [hcollecting, Bool.and_true]
        split
        · rfl
        · exact finish_of_handling hrun (recordAnswered_handling slot .accepted seq 0 s)
  · simp [MarkRecord.ofWords, bits, nth, Point.ofWords]
  · rw [addMark, if_pos h]
  · rw [addMark, if_neg (by omega), if_pos h]
  · rw [addMark, if_neg (by omega), if_neg (by omega)]

/-! ## INTAKE_RECORD (R70 to R74, R89) -/

theorem findWafer_updWafer {p : Wafer → Bool} {f : Wafer → Wafer} (hf : ∀ w, p (f w) = p w) (i : Nat) (s : State) :
    findWafer (updWafer i f s) p = findWafer s p := by
  have hone (j : Nat) : (waferAt (updWafer i f s) j).any p = (waferAt s j).any p := by
    by_cases hj : j = i
    · subst hj
      rw [waferAt_updWafer_same]
      cases waferAt s j with
      | none => rfl
      | some w => exact hf w
    · rw [waferAt_updWafer_ne hj]
  unfold findWafer
  rw [funext hone]

theorem findWafer_congr {s t : State} (h : t.wafers = s.wafers) (p : Wafer → Bool) : findWafer t p = findWafer s p := by
  unfold findWafer
  rw [funext fun i => congrArg (Option.any p) (waferAt_congr h i)]

theorem intakeAnswer_congr {s t : State} (hw : t.wafers = s.wafers) (ht : t.table = s.table) (r : IntakeRecord) :
    intakeAnswer t r = intakeAnswer s r := by
  unfold intakeAnswer capacityAnswer entryOf entriesHeld
  rw [waferAt_congr hw, ht]

theorem exec_intakeRecord_resetting {s : State} {slot : Nat} {seq : Byte} {last : Bool} (hrun : NoRunDue s)
    (hf : fetchedSlot s .intake = some (slot, seq, last)) (hreset : s.cmd.resetting = true) :
    exec .intakeRecord s = .next (finishHead s) := by
  have hdone : completeIntake s = finishHead s := by rw [completeIntake, hf]; exact if_pos hreset
  exact congrArg Host.Outcome.next ((congrArg finish hdone).trans (finish_of_handling hrun (finishHead_handling s)))

section IntakeTests

variable {s : State} {slot : Nat} {seq : Byte} {last : Bool} {n : Nat}
  (hf : fetchedSlot s .intake = some (slot, seq, last)) (hreset : s.cmd.resetting = false)

include hf hreset in
theorem exec_intakeRecord {c : AcceptCode} (hc : intakeAnswer s (.ofWords (headWords s)) = (c, n)) :
    exec .intakeRecord s = .next (finish (if c = .accepted
      then joinEntry (.ofWords (headWords s)) n (recordAnswered slot c seq n s) else recordAnswered slot c seq n s)) := by
  have hdone : completeIntake s = answerIntake slot seq (.ofWords (headWords s)) (finishHead s) := by
    rw [completeIntake, hf]; exact if_neg (by rw [hreset]; nofun)
  have hcode := (intakeAnswer_congr (finishHead_wafers s) (finishHead_table s) (.ofWords (headWords s))).trans hc
  refine congrArg Host.Outcome.next (congrArg finish (hdone.trans ?_))
  unfold answerIntake
  rw [hcode]
  rfl

include hf hreset in
theorem exec_intakeRefused {c : AcceptCode} (hrun : NoRunDue s)
    (hc : intakeAnswer s (.ofWords (headWords s)) = (c, n)) (hne : c ≠ .accepted) :
    exec .intakeRecord s = .next (recordAnswered slot c seq n s) := by
  rw [exec_intakeRecord hf hreset hc, if_neg hne, finish_recordAnswered hrun]

end IntakeTests

theorem IntakeRecord.badField_iff (r : IntakeRecord) : r.badField = true ↔
    ¬ (r.wafer ≤ 49 ∧ r.roughClass ≤ 15 ∧ r.priority ≤ 3 ∧ 0 ≤ r.inDie.x ∧ r.inDie.x ≤ 60000000 ∧
      0 ≤ r.inDie.y ∧ r.inDie.y ≤ 60000000 ∧ 0 ≤ r.size.toInt) := by
  unfold IntakeRecord.badField
  simp only [Bool.or_eq_true, decide_eq_true_eq]
  omega

theorem isClosed_iff (w : Wafer) :
    isClosed w = true ↔ w.phase = .reviewDone ∨ w.phase = .returned ∨ w.outcome ≠ none := by
  simp [isClosed, Option.ne_none_iff_isSome, or_assoc]

theorem intakeAnswer_of_wafer {s : State} {r : IntakeRecord} {w : Wafer} (hgood : r.badField = false)
    (hw : waferAt s r.wafer = some w) (hopen : isClosed w = false) : intakeAnswer s r = capacityAnswer s r := by
  rw [intakeAnswer, if_neg (by rw [hgood]; nofun), hw]
  exact if_neg (by rw [hopen]; nofun)

theorem capacityAnswer_of_new {s : State} {r : IntakeRecord} (h : entryOf s r.wafer r.defectId = none) :
    capacityAnswer s r = if 1024 ≤ entriesHeld s r.wafer then (.waferFull, 0)
      else if 2048 ≤ s.table.length then (.tableFull, 0) else (.accepted, lowestFree s.table 0) := by
  rw [capacityAnswer, h]; rfl

/-- An accepted record joins the table as a QUEUED entry, and the dispatcher looks at it on the stage (R73, R92). -/
theorem joinEntry_eq {s t : State} {r : IntakeRecord} {w : Wafer} (n : Nat) (hw : waferAt s r.wafer = some w)
    (hwafers : t.wafers = s.wafers) (htable : t.table = s.table) :
    joinEntry r n t = if stageWafer s = some r.wafer
      then dispatch (updWafer r.wafer countAccepted { t with
        table := insertSorted (fun a b => decide (a.index ≤ b.index)) (newEntry r n w.nextArrival) s.table })
      else updWafer r.wafer countAccepted { t with
        table := insertSorted (fun a b => decide (a.index ≤ b.index)) (newEntry r n w.nextArrival) s.table } := by
  have harrival : nextArrivalOf t r.wafer = w.nextArrival := by
    rw [nextArrivalOf, waferAt_congr hwafers, hw]; rfl
  have hstage (l : List Entry) : stageWafer (updWafer r.wafer countAccepted { t with table := l }) = stageWafer s :=
    (findWafer_updWafer (f := countAccepted) (fun _ => rfl) r.wafer { t with table := l }).trans
      (findWafer_congr (t := { t with table := l }) hwafers _)
  unfold joinEntry
  dsimp only
  rw [harrival, htable, hstage]

/-- Settles O35: the first test of `intakeAnswer` that holds, and the entry of an accepted record. -/
theorem intakeRecordAnswered : Obligations.IntakeRecordAnswered := by
  refine ⟨fun s slot seq last hrun hf => ?_, fun w1 w2 w3 w4 w5 w6 => ?_, rfl⟩
  · intro r good answered isClosed' held n
    have hfields (hgood : good) : r.badField = false := by
      rw [Bool.eq_false_iff, Ne, IntakeRecord.badField_iff]; exact not_not_intro hgood
    have hrefused {c : AcceptCode} {k : Nat} (hreset : s.cmd.resetting = false) (hc : intakeAnswer s r = (c, k))
        (hne : c ≠ .accepted) : exec .intakeRecord s = .next (answered c k) :=
      exec_intakeRefused hf hreset hrun hc hne
    refine ⟨exec_intakeRecord_resetting hrun hf, fun hreset hbad => ?_, fun hreset hgood hw => ?_,
      fun w hreset hgood hw => ⟨fun hclosed => ?_, fun e hopen he => ?_, fun hopen hnew => ⟨fun hfull => ?_,
        fun hroom hfull => ?_, fun hroom hplace => ?_⟩⟩⟩
    · exact hrefused hreset (if_pos ((IntakeRecord.badField_iff r).mpr hbad)) (by nofun)
    · refine hrefused hreset ?_ (by nofun)
      rw [intakeAnswer, if_neg (by rw [hfields hgood]; nofun), hw]
    · refine hrefused hreset ?_ (by nofun)
      rw [intakeAnswer, if_neg (by rw [hfields hgood]; nofun), hw]
      exact if_pos ((isClosed_iff w).mpr hclosed)
    all_goals
      have hanswer := intakeAnswer_of_wafer (hfields hgood) hw
        (Bool.eq_false_iff.mpr fun h => hopen ((isClosed_iff w).mp h))
    · refine hrefused hreset (hanswer.trans ?_) (by nofun)
      rw [capacityAnswer, entryOf, he]
    all_goals
      have hcount : entriesHeld s r.wafer = held := List.countP_eq_length_filter ..
      have hnone : entryOf s r.wafer r.defectId = none := by
        rw [entryOf, List.find?_eq_none]
        intro e he heq
        rw [Bool.and_eq_true, beq_iff_eq, beq_iff_eq] at heq
        exact hnew e he heq.1 heq.2
    · refine hrefused hreset (hanswer.trans ((capacityAnswer_of_new hnone).trans ?_)) (by nofun)
      rw [hcount, if_pos hfull]
    · refine hrefused hreset (hanswer.trans ((capacityAnswer_of_new hnone).trans ?_)) (by nofun)
      rw [hcount, if_neg (by omega), if_pos hfull]
    · intro joined u
      have hcode : intakeAnswer s r = (.accepted, n) := by
        rw [hanswer, capacityAnswer_of_new hnone, hcount, if_neg (by omega), if_neg (by omega)]
      have hjoin := joinEntry_eq (t := recordAnswered slot .accepted seq n s) n hw
        (recordAnswered_wafers slot .accepted seq n s) (recordAnswered_table slot .accepted seq n s)
      rw [exec_intakeRecord hf hreset hcode, if_pos rfl]
      exact congrArg (fun t => Host.Outcome.next (finish t)) hjoin
  · exact ⟨by simp [IntakeRecord.ofWords, bits, nth], rfl, rfl, rfl, rfl, rfl, rfl, rfl⟩

end Sys2Proof.Machine
end

-- ==== Proofs: stage faults and visit timers ====
section
/-! SUPPORT. The settlements of `StageFaults` (O41) and `VisitTimers` (O42). -/

namespace Sys2Proof.Machine

/-! ## The visit in flight -/

theorem movingVisit_of_moving {s : State} {v : Visit} (hv : s.visit.current = some v) (hm : v.state = .moving) :
    movingVisit s = some v := by
  rw [movingVisit, hv, Option.filter_eq_some_iff]
  exact ⟨rfl, beq_iff_eq.mpr hm⟩

theorem movingVisit_eq_some_iff (s : State) (v : Visit) :
    movingVisit s = some v ↔ s.visit.current = some v ∧ v.state = .moving := by
  rw [movingVisit, Option.filter_eq_some_iff, beq_iff_eq]

theorem tagInFlight_iff (s : State) (tag : BitVec 8) :
    tagInFlight s tag = true ↔ ∃ target, s.visit.move = some (tag, target) := by
  rw [tagInFlight, Option.any_eq_true]
  constructor
  · rintro ⟨⟨t, p⟩, hm, ht⟩
    cases beq_iff_eq.mp ht
    exact ⟨p, hm⟩
  · rintro ⟨p, hm⟩
    exact ⟨_, hm, beq_self_eq_true _⟩

theorem expiredVisit_of_expired {s : State} {v : Visit} {p : VisitState → Bool} (hv : s.visit.current = some v)
    (hp : p v.state = true) (ht : v.timer = 0) : expiredVisit s p = some v := by
  rw [expiredVisit, hv, Option.filter_eq_some_iff, Bool.and_eq_true]
  exact ⟨rfl, hp, beq_iff_eq.mpr ht⟩

theorem expiredVisit_eq_none {s : State} {p : VisitState → Bool}
    (h : ∀ v, s.visit.current = some v → p v.state = false ∨ v.timer ≠ 0) : expiredVisit s p = none := by
  rw [expiredVisit, Option.filter_eq_none_iff]
  intro v hv
  rw [Bool.and_eq_true, beq_iff_eq]
  rintro ⟨hp, ht⟩
  exact (h v hv).elim (fun h => by rw [h] at hp; cases hp) fun h => h ht

/-! ## FAULT (R106, R107) -/

/-- Tag and code of a stage fault in one word (R200). -/
theorem faultWord_eq (tag : BitVec 8) (code : BitVec 16) :
    word (put tag.toNat 0 16 + put code.toNat 16 16) = word (tag.toNat + 65536 * code.toNat) := by
  have htag := tag.isLt
  rw [put_of_lt (width := 16) (by omega), put_of_lt (width := 16) code.isLt, Nat.pow_zero, Nat.one_mul]
  rfl

theorem stageFaultEvent_eq (w : Option Nat) (cause : Nat) (tag : BitVec 8) (code : BitVec 16) (s : State) :
    stageFaultEvent w cause tag code s =
      postEvent .stageFault w (word cause) (word (tag.toNat + 65536 * code.toNat)) s := by
  rw [stageFaultEvent, faultWord_eq]

/-- The state in which a FAULT acts: its code is kept, and STAGE holds the dispatcher. -/
def faultHeld (code : BitVec 16) (s : State) : State :=
  holdStage { s with visit := { s.visit with faultCode := code } }

theorem takeFault_of_move {s : State} {v : Visit} {tag : BitVec 8} {target : Point} (code : BitVec 16)
    (hv : s.visit.current = some v) (hm : v.state = .moving) (hmove : s.visit.move = some (tag, target)) :
    takeFault tag code s = faultOfMove v tag code (faultHeld code s) := by
  have hmoving : movingVisit (faultHeld code s) = some v := movingVisit_of_moving hv hm
  have htag : tagInFlight (faultHeld code s) tag = true := (tagInFlight_iff _ _).mpr ⟨target, hmove⟩
  unfold faultHeld at *
  rw [takeFault, hmoving]
  exact if_pos htag

theorem takeFault_of_stray {s : State} {tag : BitVec 8} (code : BitVec 16)
    (h : ∀ v target, s.visit.current = some v → v.state = .moving → s.visit.move ≠ some (tag, target)) :
    takeFault tag code s = strayFault tag code (faultHeld code s) := by
  unfold faultHeld takeFault
  dsimp only
  cases hmoving : movingVisit (holdStage { s with visit := { s.visit with faultCode := code } }) with
  | none => rfl
  | some v =>
    obtain ⟨hv, hm⟩ := (movingVisit_eq_some_iff _ v).mp hmoving
    refine if_neg fun htag => ?_
    obtain ⟨target, hmove⟩ := (tagInFlight_iff _ _).mp htag
    exact h v target hv hm hmove

theorem strayFaultVisit_of_none {s : State} (h : s.visit.current = none) : strayFaultVisit s = s := by
  rw [strayFaultVisit, h]

theorem strayFaultVisit_of_some {s : State} {v : Visit} (h : s.visit.current = some v) :
    strayFaultVisit s = if v.state = .settling ∨ v.state = .ready then spoilVisit v s else s := by
  rw [strayFaultVisit, h]
  dsimp only
  cases v.state <;> simp

/-- Settles O41: the FAULT by the move it names, and the spoiled visit by its retries. -/
theorem stageFaults : Obligations.StageFaults := by
  refine ⟨fun tag code s => ?_, fun v e s he => ⟨fun hr => ?_, fun hr => ?_⟩⟩
  · intro held b stray
    refine ⟨fun v target hv hm hmove => ?_, fun hstray => ?_⟩
    · refine congrArg (fun t => Host.Outcome.next (finish t)) ((takeFault_of_move code hv hm hmove).trans ?_)
      unfold faultOfMove
      rw [stageFaultEvent_eq]
      rfl
    · refine congrArg (fun t => Host.Outcome.next (finish t)) ((takeFault_of_stray code hstray).trans ?_)
      have hevent : stageFaultEvent (stageWafer held) 3 tag code held = stray := stageFaultEvent_eq ..
      have hvisit : stray.visit.current = s.visit.current := by
        simp only [stray, postEvent_visit, held]
      change strayFaultVisit (stageFaultEvent (stageWafer held) 3 tag code held) = _
      rw [hevent]
      cases hv : s.visit.current with
      | none => exact strayFaultVisit_of_none (hvisit.trans hv)
      | some v => exact strayFaultVisit_of_some (hvisit.trans hv)
  · rw [spoilVisit, retriesOf_eq he, if_pos hr]
    rfl
  · rw [spoilVisit, retriesOf_eq he, if_neg (by omega), ← postEvent_table s .visitTimedOut (some v.wafer) (word v.entry) 2]
    rfl

/-! ## The timers of a visit (R98, R104, R106) -/

theorem expireMove_of_expired {s : State} {v : Visit} (h : expiredVisit s inMoving = some v) :
    expireMove s = spoilVisit v (stageFaultEvent (some v.wafer) 2 v.moveTag 0 (holdStage (haltMove s))) := by
  rw [expireMove, h]

theorem expireSettle_of_expired {s : State} {v : Visit} (h : expiredVisit s inSettling = some v) :
    expireSettle s = if degrades s v then enterReady v true s else failVisit v .focusFailed s := by
  rw [expireSettle, h]

theorem expireResult_of_expired {s : State} {v : Visit} (h : expiredVisit s awaitsResult = some v) :
    expireResult s = failVisit v .timedOut (timedOutEvent v 1 s) := by
  rw [expireResult, h]

theorem degrades_iff (s : State) (v : Visit) : degrades s v = true ↔
    (s.focus.state = .holdover ∨ s.focus.state = .lost) ∧ (v.source = .nearest ∨ v.source = .mapMean) := by
  simp [degrades]

theorem awaitsResult_iff (st : VisitState) : awaitsResult st = true ↔ st = .ready ∨ st = .grabbed := by
  simp [awaitsResult]

/-- Settles O42: each expiry by the state of the visit whose timer has run out. -/
theorem visitTimers : Obligations.VisitTimers := by
  unfold Obligations.VisitTimers
  intro inState failed
  refine ⟨fun s hrun => ⟨fun v hv hm ht => ?_, fun hnone => ?_⟩, fun s hrun => ⟨fun v hv hm ht => ?_, fun hnone => ?_⟩,
    fun s hrun => ⟨fun v hv hm ht => ?_, fun hnone => ?_⟩⟩
  · intro halted
    have hexpired := expireMove_of_expired (expiredVisit_of_expired (p := inMoving) hv (by rw [hm]; rfl) ht)
    have hhalted : haltMove s = halted := haltMove_eq s
    have hevent : stageFaultEvent (some v.wafer) 2 v.moveTag 0 (holdStage halted) =
        postEvent .stageFault (some v.wafer) 2 (word v.moveTag.toNat) (holdStage halted) := stageFaultEvent_eq ..
    rw [hhalted, hevent] at hexpired
    exact congrArg (fun t => Host.Outcome.next (finish t)) hexpired
  · have hidle : expireMove s = s := by
      rw [expireMove, expiredVisit_eq_none fun v hv => (hnone v hv).imp_left fun h => ?_]
      exact beq_eq_false_iff_ne.mpr h
    exact congrArg Host.Outcome.next ((congrArg finish hidle).trans (finish_idle s hrun))
  · intro degrade ready
    have hexpired := expireSettle_of_expired (expiredVisit_of_expired (p := inSettling) hv (by rw [hm]; rfl) ht)
    refine ⟨fun h => ?_, fun h => ?_⟩
    · rw [if_pos ((degrades_iff s v).mpr h)] at hexpired
      refine congrArg Host.Outcome.next ((congrArg finish hexpired).trans (finish_idle _ ?_))
      refine postEvent_noRunDue ?_ _ _ _ _
      exact hrun
    · rw [if_neg fun h' => h ((degrades_iff s v).mp h')] at hexpired
      exact congrArg (fun t => Host.Outcome.next (finish t)) hexpired
  · have hidle : expireSettle s = s := by
      rw [expireSettle, expiredVisit_eq_none fun v hv => (hnone v hv).imp_left fun h => ?_]
      exact beq_eq_false_iff_ne.mpr h
    exact congrArg Host.Outcome.next ((congrArg finish hidle).trans (finish_idle s hrun))
  · have hexpired := expireResult_of_expired
      (expiredVisit_of_expired (p := awaitsResult) hv ((awaitsResult_iff _).mpr hm) ht)
    exact congrArg (fun t => Host.Outcome.next (finish t)) hexpired
  · have hidle : expireResult s = s := by
      rw [expireResult, expiredVisit_eq_none fun v hv => (hnone v hv).imp_left fun h => ?_]
      rw [Bool.eq_false_iff, Ne, awaitsResult_iff, not_or]
      exact h
    exact congrArg Host.Outcome.next ((congrArg finish hidle).trans (finish_idle s hrun))

end Sys2Proof.Machine
end

-- ==== Proofs: result records and the end of a visit ====
section
/-! SUPPORT. The settlement of `ResultRecordAnswered` (O43). -/

namespace Sys2Proof.Machine

/-! ## RESULT_RECORD (R101, R102, R105, R114) -/

theorem exec_resultRecord_resetting {s : State} {slot : Nat} {seq : Byte} {last : Bool} (hrun : NoRunDue s)
    (hf : fetchedSlot s .results = some (slot, seq, last)) (hreset : s.cmd.resetting = true) :
    exec .resultRecord s = .next (finishHead s) := by
  have hdone : completeResult s = finishHead s := by rw [completeResult, hf]; exact if_pos hreset
  exact congrArg Host.Outcome.next ((congrArg finish hdone).trans (finish_of_handling hrun (finishHead_handling s)))

theorem exec_resultRecord {s : State} {slot : Nat} {seq : Byte} {last : Bool}
    (hf : fetchedSlot s .results = some (slot, seq, last)) (hreset : s.cmd.resetting = false) :
    exec .resultRecord s = .next (finish (answerResult slot seq (.ofWords (headWords s)) (finishHead s))) := by
  have hdone : completeResult s = answerResult slot seq (.ofWords (headWords s)) (finishHead s) := by
    rw [completeResult, hf]; exact if_neg (by rw [hreset]; nofun)
  exact congrArg (fun t => Host.Outcome.next (finish t)) hdone

theorem ResultRecord.badField_iff (r : ResultRecord) :
    r.badField = true ↔ ¬ (r.wafer ≤ 49 ∧ r.finalClass ≤ 31 ∧ r.found ≤ 1) := by
  unfold ResultRecord.badField
  simp only [Bool.or_eq_true, decide_eq_true_eq]
  omega

theorem resultVisit_eq_some_iff (s : State) (r : ResultRecord) (v : Visit) : resultVisit s r = some v ↔
    s.visit.current = some v ∧ (v.state = .ready ∨ v.state = .grabbed) ∧ v.wafer = r.wafer ∧ v.defectId = r.defectId := by
  rw [resultVisit, Option.filter_eq_some_iff]
  simp [and_assoc]

theorem answerResult_badField {r : ResultRecord} (slot : Nat) (seq : Byte) (s : State) (h : r.badField = true) :
    answerResult slot seq r s = acceptRecord slot .badField seq 0 s := if_pos h

theorem answerResult_visit {s : State} {r : ResultRecord} {v : Visit} (slot : Nat) (seq : Byte)
    (hgood : r.badField = false) (hv : resultVisit s r = some v) :
    answerResult slot seq r s = takeResult v r (acceptRecord slot .accepted seq v.entry s) := by
  rw [answerResult, if_neg (by rw [hgood]; nofun), hv]

theorem answerResult_none {s : State} {r : ResultRecord} (slot : Nat) (seq : Byte)
    (hgood : r.badField = false) (hv : resultVisit s r = none) :
    answerResult slot seq r s = acceptRecord slot (lateAnswer s r).1 seq (lateAnswer s r).2 s := by
  rw [answerResult, if_neg (by rw [hgood]; nofun), hv]

theorem resultVisit_congr {s t : State} (h : t.visit = s.visit) (r : ResultRecord) :
    resultVisit t r = resultVisit s r := by unfold resultVisit; rw [h]

theorem lateAnswer_congr {s t : State} (h : t.table = s.table) (r : ResultRecord) :
    lateAnswer t r = lateAnswer s r := by unfold lateAnswer; rw [h]

/-- An accepted RESULT is the last one, closes its entry and ends the visit (R102). -/
theorem takeResult_eq {s t : State} (v : Visit) (r : ResultRecord) (hvisit : t.visit = s.visit)
    (htable : t.table = s.table) :
    takeResult v r t = endVisit v (some ⟨r.finalClass, r.found == 1, r.offset⟩) { t with
      visit := { s.visit with lastResult := some ⟨v.entry, r.found == 1, r.finalClass, r.offset, r.quality⟩ }
      table := s.table.map fun e =>
        if e.index = v.entry then
          { e with
            state := if r.found = 1 then .done else .notFound
            result := some ⟨r.finalClass, r.found == 1, r.offset⟩
            visitPart := some ⟨v.state == .ready, v.predictedFocus⟩ }
        else e } := by
  rw [← hvisit, ← htable]; rfl

/-! ## The end of a visit (R103) -/

theorem driftUpdate_current (i : Nat) (r : ResultPart) (s : State) :
    (driftUpdate i r s).visit.current = s.visit.current := by
  unfold driftUpdate
  split
  · unfold realignTest
    split
    · rfl
    · split
      · unfold startRealign
        split
        · rfl
        · dsimp only
          rw [postEvent_visit]
          rfl
      · rfl
  · rfl

theorem driftStepOf_current (i : Nat) (r : Option ResultPart) (s : State) :
    (driftStepOf i r s).visit.current = s.visit.current := by
  cases r with
  | none => rfl
  | some p => exact driftUpdate_current i p s

theorem mapPointStep_visit (v : Visit) (z : Option Int) (r : Option ResultPart) (s : State) :
    (mapPointStep v z r s).visit = s.visit := by
  unfold mapPointStep
  split
  · split <;> rfl
  · rfl

theorem focusEnd_current (s : State) : (focusEnd s).visit.current = s.visit.current :=
  (endTrace_tripKept (focusIdle s)).current

/-- The hand-offs before a wafer's abort is completed leave no visit in flight (R103). -/
theorem handOffs_current (v : Visit) (i : Nat) (z : Option Int) (r : Option ResultPart) (s : State) :
    (verdictIfWaiting v.wafer (handOverStep i (mapPointStep v z r (driftStepOf v.wafer r
      (focusEnd { s with visit := { s.visit with current := none } }))))).visit.current = none := by
  rw [(verdictIfWaiting_tripKept _ _).current, (handOverStep_tripKept _ _).current, mapPointStep_visit,
    driftStepOf_current, focusEnd_current]

theorem isTerminal_eq_false_iff (st : EntryState) : st.isTerminal = false ↔
    st = .queued ∨ st = .moving ∨ st = .settling ∨ st = .ready ∨ st = .grabbed := by
  cases st <;> simp [EntryState.isTerminal]

theorem handOverStep_of_none {s : State} {i : Nat} (h : entryAt s i = none) : handOverStep i s = s := by
  rw [handOverStep, h]

theorem handOverStep_of_some {s : State} {i : Nat} {e : Entry} (h : entryAt s i = some e) : handOverStep i s =
    if e.state = .queued ∨ e.state = .moving ∨ e.state = .settling ∨ e.state = .ready ∨ e.state = .grabbed then s
    else updWafer e.wafer (fun x => { x with acc := x.acc.map (countEntry e) }) s := by
  rw [handOverStep, h]
  dsimp only
  by_cases hopen : e.state = .queued ∨ e.state = .moving ∨ e.state = .settling ∨ e.state = .ready ∨ e.state = .grabbed
  · rw [if_pos hopen, (isTerminal_eq_false_iff _).mpr hopen]; rfl
  · have hterminal : e.state.isTerminal = true :=
      Bool.eq_true_of_not_eq_false fun h => hopen ((isTerminal_eq_false_iff _).mp h)
    rw [if_neg hopen, hterminal]; rfl

theorem completeAbort_of_none {s : State} {i : Nat} (h : waferAt s i = none) : completeAbort i s = s := by
  rw [completeAbort, h]

theorem completeAbort_of_some {s : State} {i : Nat} {w : Wafer} (h : waferAt s i = some w)
    (hnone : s.visit.current = none) : completeAbort i s =
      if w.aborting = true ∧ (w.phase = .aligning ∨ w.phase = .reviewing) then enterReviewDone i .aborted s else s := by
  have hfree : visitOf s i = false := by rw [visitOf, hnone]; rfl
  have hcond : (w.aborting && (w.phase == .aligning || w.phase == .reviewing) && !visitOf s i) = true ↔
      w.aborting = true ∧ (w.phase = .aligning ∨ w.phase = .reviewing) := by
    rw [hfree]; simp
  rw [completeAbort, h]
  simp only [hcond]

/-! ## What a handed-over entry counts (R82, R147, R148) -/

/-- Each terminal state counts in its own accumulator. -/
theorem countTerminal_eq (st : EntryState) (a : WaferAcc) : countTerminal st a = { a with
    done := if st == .done then countUp a.done else a.done
    notFound := if st == .notFound then countUp a.notFound else a.notFound
    sampledOut := if st == .sampledOut then countUp a.sampledOut else a.sampledOut
    skipped := if st == .skipped then countUp a.skipped else a.skipped
    outOfRange := if st == .outOfRange then countUp a.outOfRange else a.outOfRange
    timedOut := if st == .timedOut then countUp a.timedOut else a.timedOut
    focusFailed := if st == .focusFailed then countUp a.focusFailed else a.focusFailed } := by
  cases st <;> rfl

theorem countFlags_eq (p : Option VisitPart) (a : WaferAcc) : countFlags p a = { a with
    predictedFocus := if p.any (·.predictedFocus) then countUp a.predictedFocus else a.predictedFocus
    noStrobe := if p.any (·.noStrobe) then countUp a.noStrobe else a.noStrobe } := by
  cases p <;> rfl

theorem countResult_of_done (r : ResultPart) (a : WaferAcc) : countResult .done (some r) a = { a with
    offsetSum := a.offsetSum + r.offset.x.natAbs + r.offset.y.natAbs
    classCounts := bump a.classCounts r.finalClass 1024 } := rfl

theorem countResult_frame (st : EntryState) (r : Option ResultPart) (a : WaferAcc) : ∃ sum counts,
    countResult st r a = { a with offsetSum := sum, classCounts := counts } ∧ (st ≠ .done → counts = a.classCounts) := by
  unfold countResult
  split
  · exact ⟨_, _, rfl, fun h => absurd rfl h⟩
  · exact ⟨a.offsetSum, a.classCounts, rfl, fun _ => rfl⟩

/-- Settles O43: the answer by its tests, the end of a visit hand-off by hand-off, and the counts of an entry. -/
theorem resultRecordAnswered : Obligations.ResultRecordAnswered := by
  refine ⟨fun s slot seq last hrun hf => ?_, fun v r s => ?_, fun e a => ?_, fun w1 w2 w3 w4 w5 w6 => ?_⟩
  · intro r good answered isOf late
    have hfields (hgood : good) : r.badField = false := by
      rw [Bool.eq_false_iff, Ne, ResultRecord.badField_iff]; exact not_not_intro hgood
    refine ⟨exec_resultRecord_resetting hrun hf, fun hreset hbad => ?_, fun v hreset hgood hv hof => ?_,
      fun hreset hgood hnone => ?_⟩
    · rw [exec_resultRecord hf hreset, answerResult_badField _ _ _ ((ResultRecord.badField_iff r).mpr hbad)]
      exact congrArg Host.Outcome.next (finish_recordAnswered hrun slot .badField seq 0)
    · intro part
      have hvisit : resultVisit (finishHead s) r = some v :=
        (resultVisit_congr (finishHead_visit s) r).trans ((resultVisit_eq_some_iff s r v).mpr ⟨hv, hof⟩)
      rw [exec_resultRecord hf hreset, answerResult_visit slot seq (hfields hgood) hvisit]
      exact congrArg (fun t => Host.Outcome.next (finish t)) (takeResult_eq v r
        (recordAnswered_visit slot .accepted seq v.entry s) (recordAnswered_table slot .accepted seq v.entry s))
    · have hvisit : resultVisit (finishHead s) r = none := by
        rw [resultVisit_congr (finishHead_visit s), Option.eq_none_iff_forall_ne_some]
        exact fun v h => hnone v ((resultVisit_eq_some_iff s r v).mp h).1 ((resultVisit_eq_some_iff s r v).mp h).2
      have hanswer := lateAnswer_congr (finishHead_table s) r
      rw [exec_resultRecord hf hreset, answerResult_none slot seq (hfields hgood) hvisit, hanswer]
      refine ⟨fun e he => ?_, fun he => ?_⟩
      · have hlate : lateAnswer s r = (.late, e.index) := by rw [lateAnswer, show s.table.find? _ = some e from he]
        rw [hlate]
        exact congrArg Host.Outcome.next (finish_recordAnswered hrun slot .late seq e.index)
      · have hlate : lateAnswer s r = (.noVisit, 0) := by rw [lateAnswer, show s.table.find? _ = none from he]
        rw [hlate]
        exact congrArg Host.Outcome.next (finish_recordAnswered hrun slot .noVisit seq 0)
  · intro told drifted mapped handed judged aborted
    have hdrifted : driftStepOf v.wafer r told = drifted := by cases r <;> rfl
    have hmapped : mapPointStep v s.focus.strobeHeight r drifted = mapped := by
      simp only [mapped, mapPointStep]
      generalize drifted = d, v.captured = c
      cases r <;> cases c <;> cases s.focus.strobeHeight <;> rfl
    have hhanded : handOverStep v.entry mapped = handed := by
      cases he : entryAt mapped v.entry with
      | none => rw [handOverStep_of_none he]; simp only [handed, he]
      | some e => rw [handOverStep_of_some he]; simp only [handed, he]
    have hjudged : verdictIfWaiting v.wafer handed = judged := by
      cases hw : waferAt handed v.wafer <;> simp only [verdictIfWaiting, judged, hw]
    have hcurrent : judged.visit.current = none := by
      rw [← hjudged, ← hhanded, ← hmapped, ← hdrifted]
      exact handOffs_current v v.entry s.focus.strobeHeight r s
    have haborted : completeAbort v.wafer judged = aborted := by
      cases hw : waferAt judged v.wafer with
      | none => rw [completeAbort_of_none hw]; simp only [aborted, hw]
      | some w => rw [completeAbort_of_some hw hcurrent]; simp only [aborted, hw]
    rw [← haborted, ← hjudged, ← hhanded, ← hmapped, ← hdrifted]
    rfl
  · intro b up
    obtain ⟨sum, counts, hframe, hcounts⟩ := countResult_frame e.state e.result (countFlags e.visitPart (countTerminal e.state a))
    have hb : b = { countFlags e.visitPart (countTerminal e.state a) with offsetSum := sum, classCounts := counts } := hframe
    rw [countFlags_eq, countTerminal_eq] at hb
    refine ⟨congrArg (·.accepted) hb, congrArg (·.done) hb, congrArg (·.notFound) hb, congrArg (·.sampledOut) hb,
      congrArg (·.skipped) hb, congrArg (·.outOfRange) hb, congrArg (·.timedOut) hb, congrArg (·.focusFailed) hb,
      congrArg (·.predictedFocus) hb, congrArg (·.noStrobe) hb, fun r hst hr => ?_, fun hst => ?_⟩
    · have hdone : b.classCounts = bump (countFlags e.visitPart (countTerminal e.state a)).classCounts r.finalClass 1024 := by
        simp only [b, countEntry, hst, hr, countResult_of_done]
      rw [hdone, countFlags_eq, countTerminal_eq]
      rfl
    · rw [hb]
      refine (hcounts hst).trans ?_
      rw [countFlags_eq, countTerminal_eq]
  · have hlt := w1.isLt
    refine ⟨by simp [ResultRecord.ofWords, bits, nth], rfl, rfl, ?_, rfl, rfl⟩
    change w1.toNat / 2 ^ 24 % 2 ^ 8 = w1.toNat / 16777216
    omega

end Sys2Proof.Machine
end

-- ==== Proofs: the visit sequence ====
section
/-! SUPPORT. The settlement of `VisitAdvances` (O40): what a visit that begins sets, and the messages that move it on. -/

namespace Sys2Proof.Machine

/-! ## The focus trace of a visit that begins (R134) -/

/-- The start of a trace touches the trace alone. -/
theorem startTrace_frame (e : Entry) (s : State) :
    startTrace e s = { s with focus := { s.focus with trace := (startTrace e s).focus.trace } } := by
  unfold startTrace
  split
  · split <;> rfl
  · rfl

theorem settingsOf_congr {s t : State} {i : Nat} (hlots : t.lots = s.lots)
    (hrun : (waferAt t i).map (·.run) = (waferAt s i).map (·.run)) : settingsOf t i = settingsOf s i := by
  have hlot : lotOfWafer t i = lotOfWafer s i := by
    unfold lotOfWafer
    cases ht : waferAt t i <;> cases hs : waferAt s i <;> rw [ht, hs] at hrun
    · rfl
    · cases hrun
    · cases hrun
    · have hsame := congrArg (lotOfRun s) (Option.some.inj hrun)
      rw [Option.bind_some, Option.bind_some, lotOfRun_congr hlots]
      exact hsame
  rw [settingsOf, settingsOf, hlot]

/-- Whether a trace starts, and how, looks at the settings, the lot number and the trace buffer alone (R134, R136). -/
theorem startTrace_congr {s t : State} {e : Entry} (hset : settingsOf t e.wafer = settingsOf s e.wafer)
    (hnumber : (waferAt t e.wafer).map (·.lotNumber) = (waferAt s e.wafer).map (·.lotNumber))
    (htrace : t.focus.trace = s.focus.trace) (hhanded : t.focus.traceHanded = s.focus.traceHanded) :
    (startTrace e t).focus.trace = (startTrace e s).focus.trace := by
  have hfree : traceFree t = traceFree s := by rw [traceFree, traceFree, htrace, hhanded]
  unfold startTrace
  rw [hset, hfree]
  cases settingsOf s e.wafer with
  | none => exact htrace
  | some st =>
    cases ht : waferAt t e.wafer <;> cases hs : waferAt s e.wafer <;> rw [ht, hs] at hnumber
    · exact htrace
    · cases hnumber
    · cases hnumber
    · dsimp only
      split
      · exact congrArg (fun n => some (⟨e.wafer, e.index, e.defectId, n, []⟩ : Trace)) (Option.some.inj hnumber)
      · exact htrace

/-! ## The focus unit at the beginning of a visit (R117, R122, R124, R125) -/

theorem clamp_eq (lo hi z : Int) : clamp lo hi z = if z < lo then lo else if hi < z then hi else z := rfl

/-- The bound of the output in force at the beginning of a visit: the parameter, unless the guard holds the output. -/
def beginBound (s : State) (held : Int) (n : Nat) : Int := if s.guard.state ≠ .normal then held else param s n

/-- The predicted output of a visit that begins, clamped to the bounds in force. -/
def beginOutput (s : State) (z : Int) : Int :=
  clamp (beginBound s s.focus.boundMin 16) (beginBound s s.focus.boundMax 17) z

/-- The focus fields as a visit begins, the trace apart. -/
def beginFocus (s : State) (z : Int) : Focus :=
  { s.focus with
    state := .acquiring, unsettled := false, run := 0, settle := 0, holdover := 0, accepted := []
    predicted := some (beginOutput s z), strobeHeight := none
    boundMin := beginBound s s.focus.boundMin 16, boundMax := beginBound s s.focus.boundMax 17
    output := if s.guard.state ≠ .normal then s.focus.output else beginOutput s z
    owed := if ¬ s.guard.state ≠ .normal ∧ beginOutput s z ≠ s.focus.output then false else s.focus.owed }

/-- The FOCUS_SET of a visit that begins. -/
def beginMessages (s : State) (z : Int) : List LinkMessage :=
  if ¬ s.guard.state ≠ .normal ∧ beginOutput s z ≠ s.focus.output then [.focusSet (beginOutput s z)] else []

/-- The same fields for given bounds, output and debt. -/
def acquiringFocus (f : Focus) (lo hi predicted output : Int) (owed : Bool) : Focus :=
  { f with
    state := .acquiring, unsettled := false, run := 0, settle := 0, holdover := 0, accepted := []
    predicted := some predicted, strobeHeight := none, boundMin := lo, boundMax := hi, output := output, owed := owed }

theorem begin_of_held {s : State} (h : s.guard.state ≠ .normal) (z : Int) :
    beginFocus s z = acquiringFocus s.focus s.focus.boundMin s.focus.boundMax
      (clamp s.focus.boundMin s.focus.boundMax z) s.focus.output s.focus.owed ∧ beginMessages s z = [] := by
  have hbound (b : Int) (n : Nat) : beginBound s b n = b := if_pos h
  have hsent : ¬ (¬ s.guard.state ≠ .normal ∧ beginOutput s z ≠ s.focus.output) := fun hs => hs.1 h
  refine ⟨?_, if_neg hsent⟩
  rw [beginFocus, if_neg hsent, if_pos h, beginOutput, hbound, hbound]
  rfl

theorem beginOutput_of_free {s : State} (h : s.guard.state = .normal) (z : Int) :
    beginOutput s z = clamp (param s 16) (param s 17) z := by
  have hbound (b : Int) (n : Nat) : beginBound s b n = param s n := if_neg (not_not_intro h)
  rw [beginOutput, hbound, hbound]

theorem begin_of_free {s : State} (h : s.guard.state = .normal) (z : Int) :
    beginFocus s z = acquiringFocus s.focus (param s 16) (param s 17) (beginOutput s z) (beginOutput s z)
      (if beginOutput s z ≠ s.focus.output then false else s.focus.owed) ∧
    beginMessages s z = if beginOutput s z ≠ s.focus.output then [.focusSet (beginOutput s z)] else [] := by
  have hbound (b : Int) (n : Nat) : beginBound s b n = param s n := if_neg (not_not_intro h)
  have hsent : (¬ s.guard.state ≠ .normal ∧ beginOutput s z ≠ s.focus.output) ↔ beginOutput s z ≠ s.focus.output :=
    and_iff_right (not_not_intro h)
  refine ⟨?_, by simp only [beginMessages, hsent]⟩
  simp only [beginFocus, hsent, hbound, if_neg (not_not_intro h)]
  rfl

/-- A trace that starts after the focus fields are set is the one that would start before (R134). -/
theorem startTrace_begun (e : Entry) (f : Focus) (out : List LinkMessage) (s : State) (htrace : f.trace = s.focus.trace)
    (hhanded : f.traceHanded = s.focus.traceHanded) : startTrace e { s with focus := f, out := out } =
      { s with focus := { f with trace := (startTrace e s).focus.trace }, out := out } := by
  rw [startTrace_frame, startTrace_congr (t := { s with focus := f, out := out }) (s := s) rfl rfl htrace hhanded]

theorem focusBegin_eq (e : Entry) (zPred offset : Int) (s : State) : focusBegin e zPred offset s =
    { s with
      focus := { beginFocus s (zPred + offset) with trace := (startTrace e s).focus.trace }
      out := beginMessages s (zPred + offset) ++ s.out } := by
  rw [← startTrace_begun e (beginFocus s (zPred + offset)) _ s rfl rfl]
  refine congrArg (startTrace e) ?_
  by_cases hheld : guardHolds s = true
  · obtain ⟨hfocus, hmessages⟩ := begin_of_held ((guardHolds_eq_true_iff s).mp hheld) (zPred + offset)
    rw [if_pos hheld, hfocus, hmessages]
    refine (setOutput_of_held ?_ _).trans ?_
    · exact hheld
    · rfl
  · have hfree : guardHolds s = false := Bool.eq_false_iff.mpr hheld
    have hguard := (guardHolds_eq_false_iff s).mp hfree
    obtain ⟨hfocus, hmessages⟩ := begin_of_free hguard (zPred + offset)
    have hbounds := outputBounds s
    have hwithin := clamp_bounds (lo := param s 16) (hi := param s 17) (by omega) (zPred + offset)
    have hclamp : clamp (param s 16) (param s 17) (clamp (param s 16) (param s 17) (zPred + offset)) =
        clamp (param s 16) (param s 17) (zPred + offset) := clamp_of_within hwithin.1 hwithin.2
    rw [if_neg hheld, hfocus, hmessages, beginOutput_of_free hguard]
    refine (setOutput_of_free ?_ _).trans ?_
    · exact hfree
    refine (congrArg (fun v => driveOutput v _) hclamp).trans ?_
    by_cases hsame : clamp (param s 16) (param s 17) (zPred + offset) = s.focus.output
    · rw [driveOutput, if_pos (by exact hsame), if_neg (not_not_intro hsame), if_neg (not_not_intro hsame)]
      exact congrArg (fun o => ({ s with
        focus := acquiringFocus s.focus (param s 16) (param s 17)
          (clamp (param s 16) (param s 17) (zPred + offset)) o s.focus.owed } : State)) hsame.symm
    · rw [driveOutput, if_neg (by exact hsame), if_pos hsame, if_pos hsame]
      rfl

/-! ## The entry that enters MOVING (R81) -/

theorem enterMoving_frame (e : Entry) (s : State) : enterMoving e s = { s with
    table := s.table.map fun x => if x.index = e.index then { x with state := .moving, dispatched := true } else x
    wafers := (enterMoving e s).wafers } := by
  unfold enterMoving
  dsimp only
  split <;> rfl

theorem waferAt_enterMoving {e : Entry} {s : State} {w : Wafer} (hw : waferAt s e.wafer = some w) :
    waferAt (enterMoving e s) e.wafer = some (if e.dispatched then w
      else { w with classUse := w.classUse.modify e.roughClass fun n => min 1024 (n + 1) }) := by
  unfold enterMoving
  dsimp only
  split
  · exact hw
  · rw [waferAt_updWafer_same]
    exact congrArg (Option.map _) hw

/-- A count of class use leaves what the settings and the trace look at. -/
theorem enterMoving_wafer (e : Entry) (s : State) {α : Type} (f : Wafer → α) (hf : ∀ w c, f { w with classUse := c } = f w) :
    (waferAt (enterMoving e s) e.wafer).map f = (waferAt s e.wafer).map f := by
  unfold enterMoving
  dsimp only
  split
  · rfl
  · rw [waferAt_updWafer_same, Option.map_map]
    have hcomp : (f ∘ fun w : Wafer => { w with classUse := bump w.classUse e.roughClass Config.waferEntries }) = f :=
      funext fun w => hf w _
    rw [hcomp]
    rfl

/-- The visit that begins (R93). -/
theorem beginVisit_eq (e : Entry) (t : Point) (s : State) : beginVisit e t s = { enterMoving e s with
    focus := { beginFocus s ((predict s e.wafer t).1 + ((settingsOf s e.wafer).map (·.layout.focusOffset)).getD 0) with
      trace := (startTrace e s).focus.trace }
    out := .move (s.visit.tag + 1) t.x t.y :: (beginMessages s
      ((predict s e.wafer t).1 + ((settingsOf s e.wafer).map (·.layout.focusOffset)).getD 0) ++ s.out)
    visit := { s.visit with
      tag := s.visit.tag + 1
      move := some (s.visit.tag + 1, t)
      current := some ⟨e.index, e.wafer, e.defectId, .moving, t, s.visit.tag + 1, (predict s e.wafer t).1,
        (predict s e.wafer t).2, none, none, false, false, paramNat s 7⟩ } } := by
  have hframe := enterMoving_frame e s
  have htrace : (startTrace e (enterMoving e s)).focus.trace = (startTrace e s).focus.trace := by
    refine startTrace_congr (settingsOf_congr ?_ (enterMoving_wafer e s (·.run) fun _ _ => rfl))
      (enterMoving_wafer e s (·.lotNumber) fun _ _ => rfl) ?_ ?_
    · rw [hframe]
    · rw [hframe]
    · rw [hframe]
  unfold beginVisit
  dsimp only
  rw [focusBegin_eq, htrace, hframe]
  rfl

/-! ## ARRIVED and GRAB_STROBE (R96, R97, R99, R100) -/

theorem takeArrived_of_move {s : State} {v : Visit} {tag : BitVec 8} {target : Point} (p : Point)
    (hv : s.visit.current = some v) (hm : v.state = .moving) (hmove : s.visit.move = some (tag, target)) :
    takeArrived tag p s = enterSettling v p s := by
  rw [takeArrived, movingVisit_of_moving hv hm]
  exact if_pos ((tagInFlight_iff s tag).mpr ⟨target, hmove⟩)

theorem takeArrived_of_stale {s : State} {tag : BitVec 8} (p : Point)
    (h : ∀ v target, s.visit.current = some v → v.state = .moving → s.visit.move ≠ some (tag, target)) :
    takeArrived tag p s = s := by
  unfold takeArrived
  cases hmoving : movingVisit s with
  | none => rfl
  | some v =>
    obtain ⟨hv, hm⟩ := (movingVisit_eq_some_iff s v).mp hmoving
    refine if_neg fun htag => ?_
    obtain ⟨target, hmove⟩ := (tagInFlight_iff s tag).mp htag
    exact h v target hv hm hmove

/-- The table with the entry of a place in a state. -/
def tableWith (k : Nat) (st : EntryState) (s : State) : List Entry :=
  s.table.map fun e => if e.index = k then { e with state := st } else e

/-- The second of two states of an entry stays. -/
theorem tableWith_tableWith (k : Nat) (st st' : EntryState) (s : State) :
    (tableWith k st s).map (fun e => if e.index = k then { e with state := st' } else e) = tableWith k st' s := by
  rw [tableWith, tableWith, List.map_map]
  refine List.map_congr_left fun e _ => ?_
  by_cases he : e.index = k
  · simp only [Function.comp, if_pos he]
  · simp only [Function.comp, if_neg he]

theorem enterSettling_eq (v : Visit) (p : Point) (s : State) : enterSettling v p s =
    if focusSettled s = true then
      postEvent .readyToGrab (some v.wafer) (word v.entry) v.defectId { s with
        table := tableWith v.entry .ready s
        visit := { s.visit with
          move := none
          current := some { v with
            arrival := some p, state := .ready, predictedFocus := false, timer := paramNat s 9 } } }
    else { s with
      table := tableWith v.entry .settling s
      visit := { s.visit with
        move := none
        current := some { v with state := .settling, arrival := some p, timer := paramNat s 8 } } } := by
  unfold enterSettling
  rw [settleTest_of_visit (v := { v with state := .settling, arrival := some p, timer := paramNat s 8 }) rfl]
  by_cases hsettled : focusSettled s = true
  · rw [if_pos ⟨rfl, hsettled⟩, if_pos hsettled, ← tableWith_tableWith v.entry .settling .ready s]
    rfl
  · rw [if_neg fun h => hsettled h.2, if_neg hsettled]
    rfl

theorem focusSettled_iff (s : State) :
    focusSettled s = true ↔ s.focus.state = .locked ∧ s.focus.unsettled = false := by
  simp [focusSettled]

theorem takeStrobe_of_ready {s : State} {v : Visit} (hv : s.visit.current = some v) (hr : v.state = .ready) :
    takeStrobe s = setVisit { v with
      state := .grabbed, captured := capturedAt s v, lockedAtStrobe := s.focus.state == .locked } (recordStrobe s) := by
  rw [takeStrobe, hv]
  exact if_pos hr

theorem takeStrobe_of_other {s : State} (h : ∀ v, s.visit.current = some v → v.state ≠ .ready) :
    takeStrobe s = s := by
  unfold takeStrobe
  cases hv : s.visit.current with
  | none => rfl
  | some v => exact if_neg (h v hv)

theorem capturedAt_eq (s : State) (v : Visit) :
    capturedAt s v = if s.visit.position = none then v.arrival else s.visit.position := by
  unfold capturedAt
  cases s.visit.position with
  | none => rfl
  | some p => rw [if_neg nofun]; rfl

theorem recordStrobe_eq (s : State) : recordStrobe s = { s with focus := { s.focus with
    strobeHeight := if (s.focus.state == .locked) = true
      then some (roundDiv s.focus.accepted.sum s.focus.accepted.length) else none } } := by
  unfold recordStrobe
  simp only [beq_iff_eq]
  rfl

/-- Settles O40: the beginning of a visit by the parts it sets, and each message by the visit that it moves on. -/
theorem visitAdvances : Obligations.VisitAdvances := by
  unfold Obligations.VisitAdvances
  intro inState
  refine ⟨fun e t s => ?_, fun x y s hrun => ?_, fun tag x y s hrun => ⟨fun v target hv hm hmove => ?_, fun hstale => ?_⟩,
    fun s hrun => ⟨fun v hv hr => ?_, fun hother => ?_⟩⟩
  · intro u p
    have hu : u = _ := beginVisit_eq e t s
    rw [enterMoving_frame] at hu
    refine ⟨by rw [hu], by rw [hu], by rw [hu], ?_, by rw [hu], by rw [hu], by rw [hu], by rw [hu], by rw [hu],
      fun w hw => ?_⟩
    · intro held lo hi z out sent
      exact ⟨congrArg (·.focus) hu, congrArg (·.out) hu⟩
    · have hmoving := waferAt_enterMoving hw
      rw [waferAt_congr (t := u) (s := enterMoving e s) (by rw [hu])]
      exact hmoving
  · exact congrArg Host.Outcome.next (finish_idle _ hrun)
  · intro settling ready
    have hdone := (takeArrived_of_move (.ofWords x y) hv hm hmove).trans (enterSettling_eq v (.ofWords x y) s)
    have hidle : NoRunDue (takeArrived tag (.ofWords x y) s) := by
      rw [hdone]
      split
      · refine postEvent_noRunDue ?_ _ _ _ _
        exact hrun
      · exact hrun
    refine congrArg Host.Outcome.next ((finish_idle _ hidle).trans (hdone.trans ?_))
    simp only [focusSettled_iff]
    rfl
  · exact congrArg Host.Outcome.next
      ((congrArg finish (takeArrived_of_stale (.ofWords x y) hstale)).trans (finish_idle s hrun))
  · intro locked height
    have hdone := takeStrobe_of_ready hv hr
    rw [recordStrobe_eq, capturedAt_eq] at hdone
    exact congrArg Host.Outcome.next ((congrArg finish hdone).trans (finish_idle _ hrun))
  · exact congrArg Host.Outcome.next ((congrArg finish (takeStrobe_of_other hother)).trans (finish_idle s hrun))

end Sys2Proof.Machine
end

-- ==== Proofs: the read burst of the cause cell ====
section
/-! SUPPORT. The settlement of `CauseCellRead` (O9), its read burst: the words before the cell, the cell, and the words
after it. -/

namespace Sys2Proof.Machine

/-! ## The words of the burst (R182) -/

/-- Byte address of word `k` of the read burst of the cause cell. -/
def causeAddr (b : ReadBurst) (k : Nat) : Nat := 0xFFF128 - 4 * b.before.val + 4 * k

/-- Word `k` of the read burst of the cause cell. -/
def causeUpWord (b : ReadBurst) (k : Nat) : UpWord :=
  ⟨BitVec.ofNat 22 (causeAddr b k / 4), .read, decide (k < b.before.val + b.after.val)⟩

/-- The words after the cell. -/
def causeBack (b : ReadBurst) (n : Nat) : List UpWord := (List.range n).map fun k => causeUpWord b (b.before.val + 1 + k)

theorem readBurst_eq (offset n : Nat) : readBurst offset n =
    (List.range n).map fun k => ⟨cellIndex (offset + 4 * k), .read, decide (k + 1 < n)⟩ := by
  induction n generalizing offset with
  | zero => rfl
  | succ n ih =>
    rw [readBurst, ih, List.range_succ_eq_map, List.map_cons, List.map_map]
    congr 1
    · simp
    · refine List.map_congr_left fun k _ => ?_
      simp only [Function.comp, Nat.succ_eq_add_one, Nat.add_lt_add_iff_right]
      congr 2
      omega

theorem causeBurst_eq (b : ReadBurst) :
    causeBurst b = (List.range (b.before.val + 1 + b.after.val)).map (causeUpWord b) := by
  have hbefore := b.before.isLt
  rw [causeBurst, readBurst_eq]
  refine List.map_congr_left fun k _ => ?_
  have haddr : Config.pageBase + (0x128 - 4 * b.before.val + 4 * k) = causeAddr b k := by
    unfold causeAddr Config.pageBase; omega
  have hmore : (k + 1 < b.before.val + 1 + b.after.val) = (k < b.before.val + b.after.val) := by
    rw [eq_iff_iff]; omega
  unfold cellIndex causeUpWord
  simp only [haddr, hmore]

theorem causeBurst_append (b : ReadBurst) : causeBurst b =
    (List.range b.before.val).map (causeUpWord b) ++ causeUpWord b b.before.val :: causeBack b b.after.val := by
  rw [causeBurst_eq, List.range_add, List.map_append, List.range_succ, List.map_append, List.map_map,
    List.map_singleton, List.append_assoc, List.singleton_append]
  rfl

theorem drop_causeBurst (b : ReadBurst) : (causeBurst b).drop (b.before.val + 1) = causeBack b b.after.val := by
  have hlength : ((List.range b.before.val).map (causeUpWord b) ++ [causeUpWord b b.before.val]).length =
      b.before.val + 1 := by simp
  have hsplit : (List.range b.before.val).map (causeUpWord b) ++ causeUpWord b b.before.val :: causeBack b b.after.val
      = ((List.range b.before.val).map (causeUpWord b) ++ [causeUpWord b b.before.val]) ++ causeBack b b.after.val := by
    simp
  rw [causeBurst_append, hsplit, ← hlength, List.drop_left]

theorem causeUpWord_addr {b : ReadBurst} (hb : b.before.val + b.after.val < 8) {k : Nat}
    (hk : k ≤ b.before.val + b.after.val) : (causeUpWord b k).addr = causeAddr b k := by
  have hbefore := b.before.isLt
  change 4 * (BitVec.ofNat 22 (causeAddr b k / 4)).toNat = causeAddr b k
  rw [BitVec.toNat_ofNat]
  unfold causeAddr
  omega

/-! ## What is laid over memory (R174, R181) -/

theorem overlayWord_eq_none {s : State} {offset : Nat} (h : offset ≠ 0x120 ∧ offset ≠ 0x124 ∧ offset ≠ 0x128)
    (hlow : s.path.mode ≠ .mapped ∨ offset < 0x140 ∨ 0x1C0 ≤ offset) : overlayWord s offset = none := by
  unfold overlayWord
  rw [if_neg h.1, if_neg h.2.1, if_neg h.2.2]
  rcases hlow with hmode | hrange
  · exact if_neg hmode
  · split
    · rw [if_neg (by omega), if_neg (by omega)]
    · rfl

/-- Of the words before the cell, the two next to it are answered from state, and the others by memory. -/
theorem overlaid_before (s : State) (a : Nat) (ha : a % 4 = 0) : (a < 0xFFF120 → overlaid s a = none) ∧
    (0xFFF120 ≤ a → a ≤ 0xFFF128 → (overlaid s a).isSome = true) ∧ (a = 0xFFF12C → overlaid s a = none) := by
  refine ⟨fun hlow => ?_, fun hlow hhigh => ?_, fun heq => ?_⟩
  · unfold overlaid Config.pageBase
    split
    · rfl
    · exact overlayWord_eq_none (by omega) (.inr (by omega))
  · have hcases : a = 0xFFF120 ∨ a = 0xFFF124 ∨ a = 0xFFF128 := by omega
    unfold overlaid Config.pageBase overlayWord
    rw [if_neg (by omega)]
    obtain h | h | h := hcases
    · rw [if_pos (by omega)]; rfl
    · rw [if_neg (by omega), if_pos (by omega)]; rfl
    · rw [if_neg (by omega), if_neg (by omega), if_pos (by omega)]; rfl
  · unfold overlaid Config.pageBase
    rw [if_neg (by omega)]
    exact overlayWord_eq_none (by omega) (.inr (by omega))

theorem carries_of_overlaid {s : State} {u : UpWord} (hu : u.access = .read) (h : (overlaid s u.addr).isSome = true) :
    (natureOf s u).carries = false := by
  rw [natureOf_read hu, if_pos h]; rfl

/-! ## The cell itself (R179, R195) -/

/-- The state that a served read of the cause cell leaves. -/
def causeServed (b : ReadBurst) (s : State) : State :=
  readCauseCell { s with path := { s.path with
    upBurst := burstAfter s [causeUpWord b b.before.val] s.path.upBurst
    answered := causeWord s :: s.path.answered } }

section Cell

variable {b : ReadBurst} (hb : b.before.val + b.after.val < 8) {s : State}

include hb in
theorem causeCell_addr : (causeUpWord b b.before.val).addr = 0xFFF128 := by
  have hbefore := b.before.isLt
  rw [causeUpWord_addr hb (by omega), causeAddr]
  omega

theorem upstreamRead_causeCell (s : State) : upstreamRead s 0xFFF128 = causeWord s := rfl

include hb in
theorem causeCell_carries : (natureOf s (causeUpWord b b.before.val)).carries = false :=
  carries_of_overlaid rfl (by rw [causeCell_addr hb]; exact (overlaid_before s _ rfl).2.1 (by omega) (by omega))

include hb in
theorem serveWord_causeCell (hrun : NoRunDue s) : serveWord (causeUpWord b b.before.val) s = causeServed b s := by
  have hserve : serveAccess (causeUpWord b b.before.val) (takeBus (causeUpWord b b.before.val) s) = causeServed b s := by
    change serveRead (causeUpWord b b.before.val).addr (takeBus (causeUpWord b b.before.val) s) = _
    rw [causeCell_addr hb]
    rfl
  unfold serveWord
  rw [hserve]
  exact finish_idle _ hrun

include hb in
theorem upstream_causeCell (hrun : NoRunDue s) (hnone : s.path.upWait = []) (hopen : pathHolds s = false) :
    upstream (causeUpWord b b.before.val) s = causeServed b s := by
  have hgo : mustWait s (causeUpWord b b.before.val) = false := by
    rw [mustWait_read rfl hopen, Bool.eq_false_iff, Ne, yieldsToJobs_iff, causeCell_carries hb]
    exact fun h => nomatch h.1
  rw [upstream_served hnone hgo, serveWord_causeCell hb hrun]

end Cell

/-! ## Runs of reads that end a burst (R182, R185) -/

/-- The last read of a burst is served as the others, and leaves the bus. -/
theorem upstreamBurst_reads_end (us : List UpWord) (v : UpWord) {s : State} (hrun : NoRunDue s)
    (hnone : s.path.upWait = []) (hopen : pathHolds s = false) (hread : ∀ u ∈ us, PlainRead u)
    (hmore : ∀ u ∈ us, u.more = true) (hlast : PlainRead v) (hend : v.more = false)
    (hfirst : depth s < 12 ∨ s.path.upBurst = .carried) :
    upstreamBurst (us ++ [v]) s = { s with path := { s.path with
      upBurst := .none, answered := answersTo s (us ++ [v]) ++ s.path.answered } } := by
  have hserved : upstreamBurst us s = readsServed us s :=
    upstreamBurst_reads us hrun hnone hopen hread hmore (hfirst.imp_right .inl)
  have hbus : s.path.upBurst = .carried → (readsServed us s).path.upBurst = .carried := fun h =>
    (burstAfter_carried_iff s us hmore _).mpr (.inl h)
  have hgo : mustWait (readsServed us s) v = false := by
    rw [mustWait_read (s := readsServed us s) hlast.1 hopen]
    exact yieldsToJobs_of_goesFirst (s := readsServed us s) (hfirst.imp_right hbus)
  have hstep : upstream v (readsServed us s) = readsServed [v] (readsServed us s) := by
    rw [upstream_served (s := readsServed us s) hnone hgo, serveWord_read_eq (s := readsServed us s) hrun hlast]
  have hanswers : answersTo s [v] ++ (answersTo s us ++ s.path.answered) =
      answersTo s (us ++ [v]) ++ s.path.answered := by simp [answersTo]
  have hburst : burstAfter (readsServed us s) [v] (readsServed us s).path.upBurst = .none :=
    (after_none _ _ _).mpr hend
  rw [upstreamBurst_append, hserved]
  refine Eq.trans (b := upstream v (readsServed us s)) rfl ?_
  rw [hstep, ← hanswers]
  exact congrArg (fun b => ({ s with path := { s.path with
    upBurst := b, answered := answersTo s [v] ++ (answersTo s us ++ s.path.answered) } } : State)) hburst

/-- A read burst whose first word must wait waits as a whole. -/
theorem upstreamBurst_waits (u : UpWord) (us : List UpWord) {s : State} (hnone : s.path.upWait = [])
    (hu : u.access = .read) (hwait : mustWait s u = true) :
    upstreamBurst (u :: us) s = { s with path := { s.path with upWait := u :: us, upBurst := .none } } := by
  have hstop : upstream u s = { s with path := { s.path with upWait := [u], upBurst := .none } } := by
    rw [upstream_waits hnone hwait]
    exact noteWait_of_places (u := u) (us := []) rfl (waitsForPlace_of_read hu)
  refine Eq.trans (b := upstreamBurst us (upstream u s)) rfl ?_
  rw [hstop, upstreamBurst_of_waiting]
  · rfl
  · exact List.cons_ne_nil _ _

/-! ## The burst of the cell -/

section Burst

variable {b : ReadBurst} (hb : b.before.val + b.after.val < 8) {s : State}

include hb in
theorem causeUpWord_plain {k : Nat} (hk : k ≤ b.before.val + b.after.val) (hne : k ≠ b.before.val) :
    PlainRead (causeUpWord b k) := by
  have hbefore := b.before.isLt
  refine ⟨rfl, ?_⟩
  rw [causeUpWord_addr hb hk, causeAddr]
  omega

theorem causeUpWord_more {k : Nat} (hk : k < b.before.val + b.after.val) : (causeUpWord b k).more = true :=
  decide_eq_true hk

/-- The words before the cell. -/
def causeFront (b : ReadBurst) : List UpWord := (List.range b.before.val).map (causeUpWord b)

include hb in
theorem causeFront_plain : ∀ u ∈ causeFront b, PlainRead u := by
  intro u hu
  obtain ⟨k, hk, rfl⟩ := List.mem_map.mp hu
  rw [List.mem_range] at hk
  exact causeUpWord_plain hb (by omega) (by omega)

theorem causeFront_more : ∀ u ∈ causeFront b, u.more = true := by
  intro u hu
  obtain ⟨k, hk, rfl⟩ := List.mem_map.mp hu
  rw [List.mem_range] at hk
  exact causeUpWord_more (by omega)

include hb in
/-- The one or two words before the cell that the part answers from its state. -/
theorem causeFront_overlaid (h : b.before.val ≤ 2) :
    ∀ u ∈ causeFront b, (natureOf s u).carries = false := by
  intro u hu
  obtain ⟨k, hk, rfl⟩ := List.mem_map.mp hu
  rw [List.mem_range] at hk
  refine carries_of_overlaid rfl ?_
  rw [causeUpWord_addr hb (by omega), causeAddr]
  exact (overlaid_before s _ (by omega)).2.1 (by omega) (by omega)

include hb in
theorem causeBack_plain (n : Nat) (hn : n ≤ b.after.val) : ∀ u ∈ causeBack b n, PlainRead u := by
  intro u hu
  obtain ⟨k, hk, rfl⟩ := List.mem_map.mp hu
  rw [List.mem_range] at hk
  exact causeUpWord_plain hb (by omega) (by omega)

theorem causeBack_more (n : Nat) (hn : n < b.after.val) : ∀ u ∈ causeBack b n, u.more = true := by
  intro u hu
  obtain ⟨k, hk, rfl⟩ := List.mem_map.mp hu
  rw [List.mem_range] at hk
  exact causeUpWord_more (by omega)

theorem causeBack_succ (n : Nat) : causeBack b (n + 1) = causeBack b n ++ [causeUpWord b (b.before.val + 1 + n)] := by
  simp [causeBack, List.range_succ]

/-- The state after the words before the cell and the cell itself. -/
def causeTaken (b : ReadBurst) (s : State) : State := causeServed b (readsServed (causeFront b) s)

variable (hrun : NoRunDue s) (hnone : s.path.upWait = []) (hopen : pathHolds s = false)

include hb hrun hnone hopen in
/-- The words up to the cell are served, where the jobs do not go first, or no word of them goes to memory. -/
theorem upstreamBurst_toCell
    (hfirst : depth s < 12 ∨ s.path.upBurst = .carried ∨ b.before.val ≤ 2) :
    upstreamBurst (causeBurst b) s = upstreamBurst (causeBack b b.after.val) (causeTaken b s) := by
  have hfront : upstreamBurst (causeFront b) s = readsServed (causeFront b) s :=
    upstreamBurst_reads _ hrun hnone hopen (causeFront_plain hb) causeFront_more
      (hfirst.imp_right fun h => h.imp_right fun hsmall => causeFront_overlaid hb hsmall)
  have hcell := upstream_causeCell (s := readsServed (causeFront b) s) hb hrun hnone hopen
  rw [causeBurst_append, upstreamBurst_append]
  refine Eq.trans (b := upstreamBurst (causeBack b b.after.val)
    (upstream (causeUpWord b b.before.val) (upstreamBurst (causeFront b) s))) rfl ?_
  rw [hfront, hcell]
  rfl

/-- The burst after the cell is served: it leaves the bus with its last word, and else has it where it had it. -/
theorem causeTaken_upBurst (b : ReadBurst) (s : State) : ((causeTaken b s).path.upBurst = .none ↔ b.after.val = 0) ∧
    (s.path.upBurst = .carried → 0 < b.after.val → (causeTaken b s).path.upBurst = .carried) := by
  refine ⟨(after_none _ _ _).trans ?_, fun hcarried hafter => ?_⟩
  · change decide _ = false ↔ _
    rw [decide_eq_false_iff_not]
    omega
  · have hfront : burstAfter s (causeFront b) s.path.upBurst = .carried :=
      (burstAfter_carried_iff s _ causeFront_more _).mpr (.inl hcarried)
    have hmore : (causeUpWord b b.before.val).more = true := causeUpWord_more (by omega)
    change (burstAfter s (causeFront b) s.path.upBurst).after _ (causeUpWord b b.before.val).more = _
    rw [hfront, hmore, after_eq, if_neg (by nofun), if_pos (.inr rfl)]

include hb in
/-- Where the words before the cell are answered from state, a burst that has not the bus takes none. -/
theorem causeTaken_not_carried (hsmall : b.before.val ≤ 2) (hbus : s.path.upBurst ≠ .carried) :
    (causeTaken b s).path.upBurst ≠ .carried := by
  have hfront : burstAfter s (causeFront b) s.path.upBurst ≠ .carried := by
    rw [Ne, burstAfter_carried_iff s _ causeFront_more, not_or]
    refine ⟨hbus, fun ⟨u, hu, hc⟩ => ?_⟩
    rw [causeFront_overlaid hb hsmall u hu] at hc
    cases hc
  change (burstAfter s (causeFront b) s.path.upBurst).after (natureOf _ (causeUpWord b b.before.val)).carries _ ≠ _
  rw [causeCell_carries hb, after_eq]
  split
  · nofun
  · rw [if_neg (not_or.mpr ⟨by nofun, hfront⟩)]
    nofun

include hb hrun hnone hopen in
/-- A burst that the jobs do not keep from the bus is served to its last word (R182, R185). -/
theorem upstreamBurst_cause
    (hfirst : (depth s < 12 ∨ s.path.upBurst = .carried) ∨ (b.before.val ≤ 2 ∧ b.after.val = 0)) :
    upstreamBurst (causeBurst b) s = { readCauseCell s with path := { (readCauseCell s).path with
      upBurst := .none
      answered := answersTo (readCauseCell s) (causeBack b b.after.val) ++
        causeWord s :: (answersTo s (causeFront b) ++ s.path.answered) } } := by
  rw [upstreamBurst_toCell hb hrun hnone hopen (by tauto)]
  obtain ⟨hbus, hcarried⟩ := causeTaken_upBurst b s
  rcases Nat.eq_zero_or_pos b.after.val with hzero | hpos
  · rw [hzero]
    exact congrArg (fun c => ({ readCauseCell s with path := { (readCauseCell s).path with
      upBurst := c, answered := causeWord s :: (answersTo s (causeFront b) ++ s.path.answered) } } : State))
      (hbus.mpr hzero)
  · obtain ⟨n, hn⟩ := Nat.exists_eq_add_one.mpr hpos
    have hlast : PlainRead (causeUpWord b (b.before.val + 1 + n)) := causeUpWord_plain hb (by omega) (by omega)
    have hend : (causeUpWord b (b.before.val + 1 + n)).more = false := decide_eq_false (by omega)
    have hgo : depth (causeTaken b s) < 12 ∨ (causeTaken b s).path.upBurst = .carried := by
      rcases hfirst with (hshallow | hbus') | ⟨-, hzero⟩
      · exact .inl hshallow
      · exact .inr (hcarried hbus' hpos)
      · omega
    rw [hn, causeBack_succ]
    exact upstreamBurst_reads_end (s := causeTaken b s) (causeBack b n) _ hrun hnone hopen
      (causeBack_plain hb n (by omega)) (causeBack_more n (by omega)) hlast hend hgo

include hb hrun hnone hopen in
/-- From a depth of 12 on, a burst that has not the bus waits at the first word after the cell (R185). -/
theorem upstreamBurst_causeStops (hdeep : 12 ≤ depth s) (hbus : s.path.upBurst ≠ .carried)
    (hsmall : b.before.val ≤ 2) (hpos : 1 ≤ b.after.val) :
    upstreamBurst (causeBurst b) s = { readCauseCell s with path := { (readCauseCell s).path with
      upBurst := .none
      upWait := causeBack b b.after.val
      answered := causeWord s :: (answersTo s (causeFront b) ++ s.path.answered) } } := by
  have hbefore := b.before.isLt
  obtain ⟨n, hn⟩ := Nat.exists_eq_add_one.mpr hpos
  have hcons : causeBack b b.after.val = causeUpWord b (b.before.val + 1) ::
      ((List.range n).map fun k => causeUpWord b (b.before.val + 1 + (k + 1))) := by
    rw [hn, causeBack, List.range_succ_eq_map, List.map_cons, List.map_map]
    rfl
  have haddr : (causeUpWord b (b.before.val + 1)).addr = 0xFFF12C := by
    rw [causeUpWord_addr hb (by omega), causeAddr]; omega
  have hcarries : (natureOf (causeTaken b s) (causeUpWord b (b.before.val + 1))).carries = true := by
    rw [carries_read rfl, haddr]
    exact (overlaid_before (causeTaken b s) _ rfl).2.2 rfl
  have hwait : mustWait (causeTaken b s) (causeUpWord b (b.before.val + 1)) = true := by
    refine mustWait_of_yields (s := causeTaken b s) ?_
    rw [yieldsToJobs_iff]
    exact ⟨hcarries, hdeep, causeTaken_not_carried hb hsmall hbus⟩
  rw [upstreamBurst_toCell hb hrun hnone hopen (.inr (.inr hsmall)), hcons]
  exact upstreamBurst_waits (s := causeTaken b s) _ _ hnone rfl hwait

include hb hnone in
/-- A burst that the path holds, or whose first word is of memory and must wait, waits as a whole (R169, R185). -/
theorem upstreamBurst_causeWaits (h : pathHolds s = true ∨
    ((12 ≤ depth s ∧ s.path.upBurst ≠ .carried) ∧ 3 ≤ b.before.val)) :
    upstreamBurst (causeBurst b) s =
      { s with path := { s.path with upWait := causeBurst b, upBurst := .none } } := by
  have hbefore := b.before.isLt
  have hcons : causeBurst b = causeUpWord b 0 ::
      ((List.range (b.before.val + b.after.val)).map fun k => causeUpWord b (k + 1)) := by
    rw [causeBurst_eq, Nat.add_right_comm, List.range_succ_eq_map, List.map_cons, List.map_map]
    rfl
  have hwait : mustWait s (causeUpWord b 0) = true := by
    rcases h with hheld | ⟨⟨hdeep, hbus⟩, hmany⟩
    · exact mustWait_of_pathHolds hheld
    · refine mustWait_of_yields ((yieldsToJobs_iff _ _).mpr ⟨?_, hdeep, hbus⟩)
      have haddr : (causeUpWord b 0).addr = 0xFFF128 - 4 * b.before.val := by
        rw [causeUpWord_addr hb (by omega), causeAddr]; omega
      rw [carries_read rfl, haddr]
      exact (overlaid_before s _ (by omega)).1 (by omega)
  rw [hcons]
  exact upstreamBurst_waits _ _ hnone rfl hwait

end Burst

end Sys2Proof.Machine
end

-- ==== Proofs: the overlay words ====
section
/-! SUPPORT. The settlement of `CauseCellRead` (O9): the attention line, the words that the part answers from its
state, and the whole. -/

namespace Sys2Proof.Machine

/-! ## The cause word and the attention line (R195, R196) -/

theorem Category.code_lt (c : Option Category) : optCode (fun c : Category => c.place + 1) c < 2 ^ 8 := by
  rcases c with _ | c
  · decide
  · cases c <;> decide

theorem getLsbD_unmaskedCauses (s : State) (c : Category) :
    (unmaskedCauses s).getLsbD c.place = (s.cmd.causes.getLsbD c.place && !s.cmd.mask.getLsbD c.place) := by
  rw [unmaskedCauses, BitVec.getLsbD_and, BitVec.getLsbD_not, decide_eq_true c.place_lt, Bool.true_and]

theorem topCause_eq (s : State) : topCause s =
    [Category.fault, .focus, .handling, .review, .report].find? fun c =>
      s.cmd.causes.getLsbD c.place && !s.cmd.mask.getLsbD c.place :=
  congrArg (fun p => [Category.fault, .focus, .handling, .review, .report].find? p)
    (funext fun c => getLsbD_unmaskedCauses s c)

theorem causeWord_eq (s : State) : causeWord s = word (optCode (fun c : Category => c.place + 1) (topCause s)
    + 256 * s.cmd.causes.toNat + 65536 * s.cmd.mask.toNat) := by
  have hcauses := s.cmd.causes.isLt
  have hmask := s.cmd.mask.isLt
  rw [causeWord, put_of_lt (width := 5) hcauses, put_of_lt (width := 5) hmask]
  rfl

theorem attentionLine_iff (s : State) : attentionLine s = true ↔
    ∃ c : Category, s.cmd.causes.getLsbD c.place = true ∧ s.cmd.mask.getLsbD c.place = false := by
  have hbits : ∀ x : BitVec 5, x ≠ 0 →
      x.getLsbD 0 = true ∨ x.getLsbD 1 = true ∨ x.getLsbD 2 = true ∨ x.getLsbD 3 = true ∨ x.getLsbD 4 = true := by
    decide
  have hunmasked (c : Category) : (unmaskedCauses s).getLsbD c.place = true ↔
      s.cmd.causes.getLsbD c.place = true ∧ s.cmd.mask.getLsbD c.place = false := by
    rw [getLsbD_unmaskedCauses, Bool.and_eq_true, Bool.not_eq_true']
  rw [attentionLine, bne_iff_ne]
  constructor
  · intro hne
    rcases hbits _ hne with h | h | h | h | h
    · exact ⟨.fault, (hunmasked .fault).mp h⟩
    · exact ⟨.focus, (hunmasked .focus).mp h⟩
    · exact ⟨.handling, (hunmasked .handling).mp h⟩
    · exact ⟨.review, (hunmasked .review).mp h⟩
    · exact ⟨.report, (hunmasked .report).mp h⟩
  · rintro ⟨c, hc⟩ hzero
    have hset := (hunmasked c).mpr hc
    rw [hzero] at hset
    simp at hset

/-! ## The codes fit their fields (R187) -/

theorem put_eq (v lo width : Nat) : put v lo width = 2 ^ lo * (v % 2 ^ width) := Nat.mul_comm _ _

theorem Location.code_lt (l : Location) : l.code < 2 ^ 4 := by cases l <;> decide
theorem Phase.code_lt (p : Phase) : p.code < 2 ^ 4 := by cases p <;> decide
theorem AttemptState.code_lt (a : AttemptState) : a.code < 2 ^ 2 := by cases a <;> decide
theorem HandlingState.code_lt (h : HandlingState) : h.code < 2 ^ 2 := by cases h <;> decide
theorem VisitState.code_lt (v : VisitState) : v.code < 2 ^ 3 := by cases v <;> decide
theorem FocusSource.code_lt (f : FocusSource) : f.code < 2 ^ 2 := by cases f <;> decide
theorem FocusState.code_lt_three (f : FocusState) : f.code < 2 ^ 3 := by cases f <;> decide
theorem GuardState.code_lt (g : GuardState) : g.code < 2 ^ 2 := by cases g <;> decide
theorem ResetCause.code_lt (r : ResetCause) : r.code < 2 ^ 2 := by cases r <;> decide

theorem outcomeCode_lt (o : Option WaferOutcome) : optCode WaferOutcome.code o < 2 ^ 4 := by
  rcases o with _ | o
  · decide
  · cases o <;> decide

theorem verdictCode_lt (v : Option Verdict) : optCode Verdict.code v < 2 ^ 4 := by
  rcases v with _ | v
  · decide
  · cases v <;> decide

theorem lotCode_lt (l : Option Lot) : lotCode l < 2 ^ 3 := by
  rcases l with _ | l
  · decide
  · change l.state.code < 2 ^ 3
    cases l.state <;> decide

theorem homePort_number (i : Nat) : portNumber (homePort i) = if i < 25 then 1 else 2 := by
  unfold homePort
  split <;> rfl

/-! ## Command status and status cell (R189, R193) -/

theorem inProgressFlag_iff (s : State) : inProgressFlag s = true ↔
    s.cmd.lotStart.isSome = true ∧ (s.cmd.code = .none ∨ s.cmd.code = .overrun) := by
  simp [inProgressFlag]

theorem statusView0_eq (s : State) : statusView0 s = word (s.path.mode.code + flagBit s.cmd.resetting 2
    + 2 ^ 3 * s.cmd.resetCause.code + flagBit s.cmd.warm 5 + 2 ^ 6 * lotCode s.lots.active
    + 2 ^ 9 * lotCode s.lots.second + 2 ^ 12 * s.handling.state.code + holdBits s.visit.hold 14
    + 2 ^ 18 * s.focus.state.code + 2 ^ 21 * s.guard.state.code + flagBit s.path.reloadPending 23) := by
  rw [statusView0, put_of_lt s.cmd.resetCause.code_lt, put_of_lt (lotCode_lt _), put_of_lt (lotCode_lt _),
    put_of_lt s.handling.state.code_lt, put_of_lt s.focus.state.code_lt_three, put_of_lt s.guard.state.code_lt]

/-! ## The wafer window (R187) -/

theorem waferWord0_eq {i : Nat} (hi : i < 256) (w : Wafer) : waferWord0 i w =
    word (1 + 2 ^ 8 * i + 2 ^ 16 * w.location.code + 2 ^ 20 * w.phase.code
      + 2 ^ 24 * optCode WaferOutcome.code w.outcome) := by
  rw [waferWord0, put_of_lt (width := 8) hi, put_of_lt w.location.code_lt, put_of_lt w.phase.code_lt,
    put_of_lt (outcomeCode_lt _)]
  rfl

theorem waferWord2_eq (i : Nat) (w : Wafer) : waferWord2 i w =
    word ((if i < 25 then 1 else 2) + 2 ^ 8 * (i % 25 + 1) + 2 ^ 16 * (w.align.used % 2 ^ 2)
      + 2 ^ 20 * w.align.state.code + flagBit (w.align.kind == .realign) 22
      + 2 ^ 24 * optCode Verdict.code w.align.lastVerdict) := by
  have hport : (if i < 25 then 1 else 2) < 2 ^ 8 := by split <;> decide
  have hslot : i % 25 + 1 < 2 ^ 8 := by omega
  rw [waferWord2, homePort_number, homeSlot, put_of_lt hport, put_of_lt hslot, put_eq w.align.used,
    put_of_lt w.align.state.code_lt, put_of_lt (verdictCode_lt _), Nat.pow_zero, Nat.one_mul]

theorem queuedList_length (s : State) (i : Nat) :
    (queuedList s i).length = (s.table.filter fun e => e.wafer == i && e.state == .queued).length :=
  (sortBy_perm _ _).length_eq

theorem waferEntries_eq (s : State) (i : Nat) :
    word (put (entriesHeld s i) 0 11 + put (queuedList s i).length 16 11) =
      word ((s.table.filter fun e => e.wafer == i).length % 2048 + 65536 *
        ((s.table.filter fun e => e.wafer == i && e.state == .queued).length % 2048)) := by
  rw [put_eq, put_eq, queuedList_length, entriesHeld, List.countP_eq_length_filter, Nat.pow_zero, Nat.one_mul]
  rfl

theorem selectedWafer_lt (s : State) : selectedWafer s < 256 := Nat.mod_lt _ (by decide)

theorem waferWindow_of_none {s : State} (h : waferAt s (selectedWafer s) = none) :
    waferWindow s = [word (256 * selectedWafer s), 0, 0, 0, 0, 0, 0, 0, 0, 0, 0, 0, 0, 0, 0, 0] := by
  rw [waferWindow, h]
  dsimp only
  rw [put_of_lt (width := 8) (selectedWafer_lt s)]
  rfl

theorem waferWindow_of_some {s : State} {w : Wafer} (h : waferAt s (selectedWafer s) = some w) :
    waferWindow s = waferWords s (selectedWafer s) w := by
  rw [waferWindow, h]

/-! ## The visit window (R113, R187) -/

theorem tagWord_eq (s : State) (tag : BitVec 8) :
    tagWord s tag = word (tag.toNat + 65536 * s.visit.faultCode.toNat) := by
  have htag := tag.isLt
  rw [tagWord, put_of_lt (width := 8) htag, put_of_lt (width := 16) s.visit.faultCode.isLt, Nat.pow_zero, Nat.one_mul]
  rfl

theorem lastResultWord_some (r : LastResult) : lastResultWord (some r) =
    word (r.entry % 2048 + flagBit (!r.found) 12 + 2 ^ 16 * (r.finalClass % 32) + flagBit r.found 21
      + 2 ^ 24 * (r.quality % 256)) := by
  unfold lastResultWord
  simp only [put_eq]
  rw [Nat.pow_zero, Nat.one_mul]
  rfl

theorem visitWord0_eq (s : State) (v : Visit) : visitWord0 s v =
    word (v.state.code + 2 ^ 4 * v.source.code + flagBit v.arrival.isSome 8 + flagBit v.captured.isSome 9
      + flagBit v.lockedAtStrobe 10 + flagBit v.predictedFocus 11
      + 2 ^ 16 * (((entryAt s v.entry).map (·.retries) |>.getD 0) % 4) + visitFlags s) := by
  rw [visitWord0, put_of_lt v.state.code_lt, put_of_lt v.source.code_lt, put_eq, Nat.pow_zero, Nat.one_mul]
  rfl

theorem visitPlace_eq (v : Visit) :
    word (put v.entry 0 11 + put v.wafer 16 8) = word (v.entry % 2048 + 65536 * (v.wafer % 256)) := by
  rw [put_eq, put_eq, Nat.pow_zero, Nat.one_mul]
  rfl

/-! ## Reads of the windows (R174, R181) -/

theorem getElem?_getD_of_lt {l : List Word} {k : Nat} (h : k < l.length) (m : Word) : l[k]?.getD m = l.getD k 0 := by
  rw [List.getD_eq_getElem?_getD, List.getElem?_eq_getElem h]
  rfl

/-- A word of the wafer window of a MAPPED path. -/
theorem upstreamRead_waferWindow {s : State} {k : Nat} (hk : k < 16) (hm : s.path.mode = .mapped) {l : List Word}
    (hl : waferWindow s = l) (hlen : l.length = 16) : upstreamRead s (0xFFF140 + 4 * k) = l.getD k 0 := by
  have hplace : (0xFFF140 + 4 * k - 0xFFF000 - 0x140) / 4 = k := by omega
  have hword : overlaid s (0xFFF140 + 4 * k) = l[k]? := by
    unfold overlaid Config.pageBase overlayWord
    rw [if_neg (by omega), if_neg (by omega), if_neg (by omega), if_neg (by omega), if_pos hm, if_pos (by omega),
      hplace, hl]
  rw [upstreamRead, hword, getElem?_getD_of_lt (by omega)]

/-- A word of the visit window of a MAPPED path. -/
theorem upstreamRead_visitWindow {s : State} {k : Nat} (hk : k < 16) (hm : s.path.mode = .mapped) {l : List Word}
    (hl : visitWindow s = l) (hlen : l.length = 16) : upstreamRead s (0xFFF180 + 4 * k) = l.getD k 0 := by
  have hplace : (0xFFF180 + 4 * k - 0xFFF000 - 0x180) / 4 = k := by omega
  have hword : overlaid s (0xFFF180 + 4 * k) = l[k]? := by
    unfold overlaid Config.pageBase overlayWord
    rw [if_neg (by omega), if_neg (by omega), if_neg (by omega), if_neg (by omega), if_pos hm, if_neg (by omega),
      if_pos (by omega), hplace, hl]
  rw [upstreamRead, hword, getElem?_getD_of_lt (by omega)]

theorem upstreamRead_memory {s : State} {a : Nat} (h0 : a ≠ 0xFFF120) (h1 : a ≠ 0xFFF124) (h2 : a ≠ 0xFFF128)
    (h : s.path.mode ≠ .mapped ∨ a < 0xFFF140 ∨ 0xFFF1C0 ≤ a) : upstreamRead s a = readWord s.mem a := by
  have hword : overlaid s a = none := by
    unfold overlaid Config.pageBase
    split
    · rfl
    · refine overlayWord_eq_none (by omega) (h.imp_right fun h => ?_)
      omega
  rw [upstreamRead, hword]
  rfl

end Sys2Proof.Machine
end

-- ==== Proofs: the read of the cause cell, settled ====
section
/-! SUPPORT. The settlement of `CauseCellRead` (O9): the words of status and of the two windows as wholes, and the
statement itself. -/

namespace Sys2Proof.Machine

/-! ## Optional parts of the state -/

theorem getD_map_eq {α β : Type} (f : α → β) (d : β) (o : Option α) : (o.map f).getD d = o.elim d f := by
  cases o <;> rfl

theorem apply_getD_map {α β γ : Type} (g : β → γ) (f : α → β) (d : β) (o : Option α) :
    g ((o.map f).getD d) = o.elim (g d) fun a => g (f a) := by
  cases o <;> rfl

/-! ## Command status and status cell, second view (R189, R193) -/

theorem commandStatusWord_eq (s : State) : commandStatusWord s = word (s.cmd.code.code + 256 * s.cmd.echoed.toNat
    + (if s.cmd.lotStart.isSome = true ∧ (s.cmd.code = .none ∨ s.cmd.code = .overrun) then 65536 else 0)
    + 2 ^ 24 * s.cmd.count.toNat) := by
  have hflag : flagBit (inProgressFlag s) 16 =
      if s.cmd.lotStart.isSome = true ∧ (s.cmd.code = .none ∨ s.cmd.code = .overrun) then 65536 else 0 :=
    if_congr (inProgressFlag_iff s) rfl rfl
  rw [commandStatusWord, hflag, put_of_lt (width := 8) s.cmd.echoed.isLt, put_of_lt (width := 8) s.cmd.count.isLt]
  rfl

/-- Drops of the zone of the last drop. -/
def lastDrops (s : State) : Nat := s.path.lastDrop.elim 0 fun z => s.path.drops.getD z 0

theorem statusView1_eq (s : State) : statusView1 s = word (depth s % 2 ^ 5 + 2 ^ 6 * (s.report.queue.length % 2 ^ 6)
    + 2 ^ 12 * (s.path.lastDrop.elim 15 id % 2 ^ 4) + 2 ^ 16 * min (lastDrops s) 32767 + 2 ^ 31) := by
  have hdrops : min (lastDrops s) 32767 < 2 ^ 15 := by omega
  have hlast : s.path.lastDrop.getD 15 = s.path.lastDrop.elim 15 id := by cases s.path.lastDrop <;> rfl
  have hview : statusView1 s = word (put (depth s) 0 5 + put s.report.queue.length 6 6
      + put (s.path.lastDrop.getD 15) 12 4 + put (min (lastDrops s) 32767) 16 15 + flagBit true 31) := by
    unfold statusView1 lastDrops
    cases s.path.lastDrop <;> rfl
  rw [hview, hlast, put_of_lt hdrops, put_eq, put_eq, put_eq, Nat.pow_zero, Nat.one_mul]
  rfl

/-! ## The windows as lists of words (R113, R187) -/


theorem prealignOffset_eq (p : Option Prealign) :
    prealignOffset p = p.elim 0 fun p => word (p.offsetX.toNat + 65536 * p.offsetY.toNat) := by
  rcases p with _ | p
  · rfl
  · exact packPair_toInt p.offsetX p.offsetY

theorem waferWords_eq {i : Nat} (hi : i < 256) (s : State) (w : Wafer) : waferWords s i w =
    [word (1 + 2 ^ 8 * i + 2 ^ 16 * w.location.code + 2 ^ 20 * w.phase.code
        + 2 ^ 24 * w.outcome.elim 0 WaferOutcome.code),
     w.lotNumber,
     word ((if i < 25 then 1 else 2) + 2 ^ 8 * (i % 25 + 1) + 2 ^ 16 * (w.align.used % 2 ^ 2)
        + 2 ^ 20 * w.align.state.code + flagBit (w.align.kind == .realign) 22
        + 2 ^ 24 * w.align.lastVerdict.elim 0 Verdict.code),
     w.prealign.elim 0 fun p => p.notch,
     w.prealign.elim 0 fun p => word (p.offsetX.toNat + 65536 * p.offsetY.toNat),
     w.transform.elim 0 fun t => wordOfInt t.a,
     w.transform.elim 0 fun t => wordOfInt t.b,
     word (flagBit w.prealign.isSome 0 + flagBit w.transform.isSome 1 + flagBit w.reviewEnd 2
        + flagBit w.aborting 3 + flagBit w.acc.isSome 4),
     wordOfInt w.drift.x, wordOfInt w.drift.y,
     word ((s.table.filter fun e => e.wafer == i).length % 2048 + 65536 *
       ((s.table.filter fun e => e.wafer == i && e.state == .queued).length % 2048)),
     0, 0, 0, 0, 0] := by
  rw [waferWords, waferWord0_eq hi, waferWord2_eq, waferEntries_eq, prealignOffset_eq, getD_map_eq,
    apply_getD_map wordOfInt, apply_getD_map wordOfInt, optCode, getD_map_eq, optCode, getD_map_eq]
  rfl

theorem xOf_eq (p : Option Point) : xOf p = p.elim 0 fun p => wordOfInt p.x := apply_getD_map _ _ _ _

theorem yOf_eq (p : Option Point) : yOf p = p.elim 0 fun p => wordOfInt p.y := apply_getD_map _ _ _ _

theorem resultWords_eq (s : State) : resultWords s = s.visit.lastResult.elim [0, 0, 0, 0] fun r =>
    [word (r.entry % 2048 + flagBit (!r.found) 12 + 2 ^ 16 * (r.finalClass % 32) + flagBit r.found 21
      + 2 ^ 24 * (r.quality % 256)), wordOfInt r.offset.x, wordOfInt r.offset.y, 0] := by
  rw [resultWords]
  rcases s.visit.lastResult with _ | r
  · rfl
  · rw [lastResultWord_some]
    rfl

theorem idleVisitWords_eq (s : State) : idleVisitWords s =
    [word (48 + visitFlags s), 0, 0, 0, 0, 0, word (s.visit.tag.toNat + 65536 * s.visit.faultCode.toNat),
      0, 0, 0, 0, 0] ++ resultWords s := by
  rw [idleVisitWords, tagWord_eq]
  rfl

theorem visitWords_eq (s : State) (v : Visit) : visitWords s v =
    [word (v.state.code + 2 ^ 4 * v.source.code + flagBit v.arrival.isSome 8 + flagBit v.captured.isSome 9
        + flagBit v.lockedAtStrobe 10 + flagBit v.predictedFocus 11
        + 2 ^ 16 * (((entryAt s v.entry).elim 0 fun e => e.retries) % 4) + visitFlags s),
     word (v.entry % 2048 + 65536 * (v.wafer % 256)), v.defectId,
     (entryAt s v.entry).elim 0 fun e => e.size,
     wordOfInt v.target.x, wordOfInt v.target.y,
     word (v.moveTag.toNat + 65536 * s.visit.faultCode.toNat),
     wordOfInt v.zPred, v.arrival.elim 0 fun p => wordOfInt p.x, v.arrival.elim 0 fun p => wordOfInt p.y,
     v.captured.elim 0 fun p => wordOfInt p.x, v.captured.elim 0 fun p => wordOfInt p.y] ++ resultWords s := by
  rw [visitWords, visitWord0_eq, visitPlace_eq, tagWord_eq, getD_map_eq, getD_map_eq, xOf_eq, yOf_eq, xOf_eq,
    yOf_eq]

theorem visitWindow_of_none {s : State} (h : s.visit.current = none) : visitWindow s = idleVisitWords s := by
  rw [visitWindow, h]

theorem visitWindow_of_some {s : State} {v : Visit} (h : s.visit.current = some v) :
    visitWindow s = visitWords s v := by
  rw [visitWindow, h]

theorem waferWindow_length (s : State) : (waferWindow s).length = 16 := by
  unfold waferWindow
  split <;> rfl

theorem visitWindow_length (s : State) : (visitWindow s).length = 16 := by
  unfold visitWindow
  split <;> rfl

/-! ## The answers of the burst (R182) -/

theorem answersTo_causeFront {b : ReadBurst} (hb : b.before.val + b.after.val < 8) (s : State) :
    answersTo s (causeFront b) =
      ((List.range b.before.val).map fun k => upstreamRead s (causeAddr b k)).reverse := by
  rw [answersTo, causeFront, List.map_map]
  refine congrArg List.reverse (List.map_congr_left fun k hk => ?_)
  rw [List.mem_range] at hk
  rw [Function.comp_apply, causeUpWord_addr hb (by omega)]

theorem answersTo_causeBack {b : ReadBurst} (hb : b.before.val + b.after.val < 8) (s : State) :
    answersTo s (causeBack b b.after.val) =
      ((List.range b.after.val).map fun k => upstreamRead s (0xFFF12C + 4 * k)).reverse := by
  have hbefore := b.before.isLt
  rw [answersTo, causeBack, List.map_map]
  refine congrArg List.reverse (List.map_congr_left fun k hk => ?_)
  rw [List.mem_range] at hk
  have haddr : causeAddr b (b.before.val + 1 + k) = 0xFFF12C + 4 * k := by unfold causeAddr; omega
  rw [Function.comp_apply, causeUpWord_addr hb (by omega), haddr]

/-- The answers up to the cell. -/
def causeAnswers (b : ReadBurst) (s : State) : List Word :=
  ((List.range b.before.val).map fun k => upstreamRead s (causeAddr b k)) ++ [causeWord s]

theorem causeAnswers_reverse {b : ReadBurst} (hb : b.before.val + b.after.val < 8) (s : State) (l : List Word) :
    causeWord s :: (answersTo s (causeFront b) ++ l) = (causeAnswers b s).reverse ++ l := by
  rw [answersTo_causeFront hb, causeAnswers, List.reverse_append]
  rfl

/-- Settles O9. -/
theorem causeCellRead : Obligations.CauseCellRead := by
  unfold Obligations.CauseCellRead
  intro top shown cleared addr asked before after
  have htop (s : State) : top s = topCause s := (topCause_eq s).symm
  have hshown (s : State) : shown s = causeWord s := by
    rw [causeWord_eq]
    simp only [shown, htop]
    cases topCause s <;> rfl
  have hcleared (s : State) : cleared s = readCauseCell s := by
    simp only [cleared, htop]
    rfl
  have hasked (b : ReadBurst) : asked b = causeBurst b := (causeBurst_eq b).symm
  have hbefore (b : ReadBurst) (s : State) : before b s = causeAnswers b s := by
    simp only [before, hshown]
    rfl
  refine ⟨fun b s hwf hrun => ?_, attentionLine_iff, fun s a => ?_, rfl, rfl, rfl, rfl, rfl, rfl, rfl, rfl, rfl, rfl,
    rfl, rfl, rfl, rfl⟩
  · have hb : b.before.val + b.after.val < 8 := of_decide_eq_true hwf
    have hafter : answersTo (readCauseCell s) (causeBack b b.after.val) = (after b s).reverse := by
      simp only [after, hcleared]
      exact answersTo_causeBack hb _
    have hback : (asked b).drop (b.before.val + 1) = causeBack b b.after.val := by rw [hasked, drop_causeBurst]
    intro held yields
    rw [hback, hasked, hcleared, hbefore]
    refine ⟨fun hnone hopen hfirst => ?_, fun hnone hopen hyields hsmall hpos => ?_, fun hnone hwait => ?_,
      fun hwaiting => ?_⟩
    · have hgoes : (depth s < 12 ∨ s.path.upBurst = .carried) ∨ (b.before.val ≤ 2 ∧ b.after.val = 0) :=
        hfirst.imp_left fun h => by
          simp only [yields, not_and_or, not_le, not_not] at h
          exact h
      have hserved := upstreamBurst_cause hb hrun hnone (not_pathHolds hopen) hgoes
      rw [hafter, causeAnswers_reverse hb, ← List.append_assoc, ← List.reverse_append] at hserved
      exact congrArg Host.Outcome.next hserved
    · have hserved := upstreamBurst_causeStops hb hrun hnone (not_pathHolds hopen) hyields.1 hyields.2 hsmall hpos
      rw [causeAnswers_reverse hb] at hserved
      exact congrArg Host.Outcome.next hserved
    · exact congrArg Host.Outcome.next
        (upstreamBurst_causeWaits hb hnone (hwait.imp_left (pathHolds_iff s).mpr))
    · exact congrArg Host.Outcome.next (upstreamBurst_of_waiting _ hwaiting)
  · intro flag lot holds started x y i waferWords shared result visitWords drops
    have hwafer : waferWindow s = waferWords := by
      rcases hw : waferAt s i with _ | w
      · rw [waferWindow_of_none hw]
        simp only [waferWords, hw]
        rfl
      · rw [waferWindow_of_some hw, waferWords_eq (selectedWafer_lt s)]
        simp only [waferWords, hw]
        cases w.outcome <;> cases w.align.lastVerdict <;> cases w.prealign <;> cases w.transform <;> rfl
    have hresult : resultWords s = result := by
      rw [resultWords_eq]
      simp only [result]
      cases s.visit.lastResult <;> rfl
    have hvisit : visitWindow s = visitWords ++ result := by
      rcases hv : s.visit.current with _ | v
      · rw [visitWindow_of_none hv, idleVisitWords_eq, hresult]
        simp only [visitWords, hv]
        rfl
      · rw [visitWindow_of_some hv, visitWords_eq, hresult]
        simp only [visitWords, hv]
        cases entryAt s v.entry <;> cases v.arrival <;> cases v.captured <;> rfl
    refine ⟨fun ha => ?_, fun ha hsel => ?_, fun ha hsel => ?_, fun ha => ?_, fun k hk hm ha => ?_,
      fun k hk hm ha => ?_, fun h0 h1 h2 h => upstreamRead_memory h0 h1 h2 h⟩
    · exact ha ▸ commandStatusWord_eq s
    · have hword : statusWord s = statusView0 s := by rw [statusWord, hsel]; rfl
      have hlot (l : Option Lot) : lotCode l = lot l := by cases l <;> rfl
      rw [ha]
      refine hword.trans ?_
      rw [statusView0_eq, hlot, hlot]
      rfl
    · have hword : statusWord s = statusView1 s := by rw [statusWord, hsel]; rfl
      rw [ha]
      refine hword.trans ?_
      rw [statusView1_eq, lastDrops]
      simp only [drops]
      cases s.path.lastDrop <;> rfl
    · exact ha ▸ (hshown s).symm
    · rw [ha]
      exact upstreamRead_waferWindow hk hm hwafer (hwafer ▸ waferWindow_length s)
    · rw [ha]
      exact upstreamRead_visitWindow hk hm hvisit (hvisit ▸ visitWindow_length s)

end Sys2Proof.Machine
end
